-- ==== Sys2Proof/Word.lean ====
section
/-! DEFINITION. The unit of data of the block: the byte (00_scope.md R5) and the byte sequence (R12). -/

namespace Sys2Proof

/-- R5: eight bits, 0 to 255. The block only ever compares bytes for equality (R12). -/
abbrev Byte := BitVec 8

/-- R12: a finite byte sequence, element 0 first in time (20_memory.md R55). -/
abbrev Bytes := List Byte

end Sys2Proof
end

