-- ==== Sys2Proof/Config.lean ====
section
/-! DEFINITION. The configuration `cfg` (00_scope.md R6 to R11): what an implementation fixes before reset.
It is a constant of the machine (10_state.md R31); the model carries it in State so that every statement holds for
every configuration (log entry 1). The spec leaves no value undefined after a step, so there is no free value here. -/

namespace Sys2Proof

/-- R6, R9, R10: the escape alphabet, the capacity of the decoder's payload buffer, and the longest payload the
serializer accepts. -/
structure Config where
  escape        : Byte
  frameBegin    : Byte
  frameEnd      : Byte
  literalZero   : Byte
  literalEscape : Byte
  cap           : Nat
  encCap        : Nat
  deriving DecidableEq, Repr

/-- R6: the five named byte constants. -/
def Config.alphabet (c : Config) : Bytes :=
  [c.escape, c.frameBegin, c.frameEnd, c.literalZero, c.literalEscape]

/-- R8 (the five values pairwise distinct, none of them 0x00) and R9 (`CAP >= 1`). A configuration that is not
well-formed is refused. -/
def Config.wf (c : Config) : Bool :=
  decide (c.alphabet.Nodup ∧ 0x00#8 ∉ c.alphabet ∧ 1 ≤ c.cap)

/-- R7, R9, R10: the reference configuration `REF`. Only 0x41 and the 64 of CAP are values of the source
(log entry 2, DESIGN CHOICE of the spec: D2, D4, D16). -/
def Config.ref : Config where
  escape        := 0x41#8
  frameBegin    := 0x42#8
  frameEnd      := 0x43#8
  literalZero   := 0x44#8
  literalEscape := 0x45#8
  cap           := 64
  encCap        := 64

end Sys2Proof
end

