-- ==== Sys2Proof/Syntax.lean ====
section
/-! DEFINITION. The rows of the transition map (30_encoding.md R85, spec/opcode_table.json) as syntax, and what
selects them. -/

namespace Sys2Proof

/-- 10_state.md R21: the resting modes. FrameComplete and Error are names of steps and are never stored (R25), so the
model cannot represent them. -/
inductive Mode where
  | idle | escaped | inFrame
  deriving DecidableEq, Repr

/-- R85: what selects an emission row, one element of the walk over a payload. -/
inductive EncTok where
  | payloadStart
  | payloadByte (v : Byte)
  | payloadEnd
  deriving DecidableEq, Repr

/-- The input of one row: a stream byte fed to the decoder, or an element of the encoder's walk. -/
inductive Sel where
  | rx (b : Byte)
  | enc (t : EncTok)
  deriving DecidableEq, Repr

/-- One constructor per row of spec/opcode_table.json, in its order. A row whose byte is a constant of the
configuration has no operand; a default row carries the byte that selected it. -/
inductive Instr where
  | dIdleSkip (b : Byte)
  | dIdleEsc
  | dEscBegin
  | dEscBeginNested
  | dEscEnd
  | dEscEndStray
  | dEscLitesc
  | dEscLitzero
  | dEscLitescStray
  | dEscLitzeroStray
  | dEscUnknown (b : Byte)
  | dFrameEsc
  | dFrameData (b : Byte)
  | ePreamble
  | eZero
  | eEscape
  | eVerbatim (v : Byte)
  | ePostamble
  deriving DecidableEq, Repr

end Sys2Proof
end

