-- ==== Sys2Proof/WellFormed.lean ====
section
/-! DEFINITION. Which operand values a row may carry: a default row carries a byte that no other row of its mode
names (30_encoding.md R82, R85). -/

namespace Sys2Proof

/-- The operand of a default row is not a value another row fixes. -/
def Instr.wf (c : Config) : Instr → Bool
  | .dIdleSkip b => b != c.escape
  | .dEscUnknown b =>
    b != c.frameBegin && b != c.frameEnd && b != c.literalEscape && b != c.literalZero
  | .dFrameData b => b != c.escape
  | .eVerbatim v => v != 0x00#8 && v != c.escape
  | .dIdleEsc | .dEscBegin | .dEscBeginNested | .dEscEnd | .dEscEndStray | .dEscLitesc | .dEscLitzero
  | .dEscLitescStray | .dEscLitzeroStray | .dFrameEsc | .ePreamble | .eZero | .eEscape | .ePostamble => true

end Sys2Proof
end

