-- ==== Sys2Proof/Decode.lean ====
section
/-! DEFINITION. Selection of a row by the decoder's mode, its frame-open flag and one input (30_encoding.md R75, R85,
R82), the input that selects a row (the other direction), and the words of spec/opcode_table.json. -/

namespace Sys2Proof

/-- R75: the classes of a byte in modes Idle and InFrame. -/
inductive Cls1 where
  | esc | raw
  deriving DecidableEq, Repr

/-- R75: the classes of a byte in mode Escaped. -/
inductive Cls2 where
  | frameBegin | frameEnd | litEsc | litZero | other
  deriving DecidableEq, Repr

/-- Why an input selects no row. -/
inductive Reject where
  /-- R8: the configuration is not well-formed. -/
  | illFormedConfig
  /-- R25: mode Idle with a frame open is unreachable. -/
  | idleWhileOpen
  /-- R25: mode InFrame with no frame open is unreachable. -/
  | inFrameWhileClosed
  deriving DecidableEq, Repr

/-- R75. -/
def cls1 (c : Config) (b : Byte) : Cls1 := if b = c.escape then .esc else .raw

/-- R75. -/
def cls2 (c : Config) (b : Byte) : Cls2 :=
  if b = c.frameBegin then .frameBegin
  else if b = c.frameEnd then .frameEnd
  else if b = c.literalEscape then .litEsc
  else if b = c.literalZero then .litZero
  else .other

/-- R85, mode Idle: rows R102 and R103. -/
def decodeIdle (c : Config) (b : Byte) : Instr :=
  match cls1 c b with
  | .raw => .dIdleSkip b
  | .esc => .dIdleEsc

/-- R85, mode Escaped: rows R104 to R112. -/
def decodeEscaped (c : Config) (frameOpen : Bool) (b : Byte) : Instr :=
  match cls2 c b, frameOpen with
  | .frameBegin, false => .dEscBegin
  | .frameBegin, true  => .dEscBeginNested
  | .frameEnd,   true  => .dEscEnd
  | .frameEnd,   false => .dEscEndStray
  | .litEsc,     true  => .dEscLitesc
  | .litZero,    true  => .dEscLitzero
  | .litEsc,     false => .dEscLitescStray
  | .litZero,    false => .dEscLitzeroStray
  | .other,      _     => .dEscUnknown b

/-- R85, mode InFrame: rows R113 and R114. -/
def decodeInFrame (c : Config) (b : Byte) : Instr :=
  match cls1 c b with
  | .esc => .dFrameEsc
  | .raw => .dFrameData b

/-- R85, the encoder's rows, in the order of tests of 41_encoder.md R146. -/
def decodeTok (c : Config) : EncTok → Instr
  | .payloadStart  => .ePreamble
  | .payloadByte v => if v = 0x00#8 then .eZero else if v = c.escape then .eEscape else .eVerbatim v
  | .payloadEnd    => .ePostamble

/-- R85: the row that mode, frame-open flag and input select. It is total: the inputs with no row (R25, and every input
of an ill-formed configuration, R8) are rejected by name. The payload half of R25 is `Machine.Decoder.inv`'s. -/
def decode (c : Config) (m : Mode) (frameOpen : Bool) (w : Sel) : Except Reject Instr :=
  if c.wf then
    match w with
    | .enc t => .ok (decodeTok c t)
    | .rx b =>
      match m, frameOpen with
      | .idle, false   => .ok (decodeIdle c b)
      | .idle, true    => .error .idleWhileOpen
      | .escaped, _    => .ok (decodeEscaped c frameOpen b)
      | .inFrame, true => .ok (decodeInFrame c b)
      | .inFrame, false => .error .inFrameWhileClosed
  else .error .illFormedConfig

/-- The input that selects a row (R85 column "input class", R82). -/
def Instr.encode (c : Config) : Instr → Sel
  | .dIdleSkip b => .rx b
  | .dIdleEsc => .rx c.escape
  | .dEscBegin => .rx c.frameBegin
  | .dEscBeginNested => .rx c.frameBegin
  | .dEscEnd => .rx c.frameEnd
  | .dEscEndStray => .rx c.frameEnd
  | .dEscLitesc => .rx c.literalEscape
  | .dEscLitzero => .rx c.literalZero
  | .dEscLitescStray => .rx c.literalEscape
  | .dEscLitzeroStray => .rx c.literalZero
  | .dEscUnknown b => .rx b
  | .dFrameEsc => .rx c.escape
  | .dFrameData b => .rx b
  | .ePreamble => .enc .payloadStart
  | .eZero => .enc (.payloadByte 0x00#8)
  | .eEscape => .enc (.payloadByte c.escape)
  | .eVerbatim v => .enc (.payloadByte v)
  | .ePostamble => .enc .payloadEnd

/-- R85 column "mode"; the encoder's rows do not read the mode. -/
def Instr.rowMode : Instr → Option Mode
  | .dIdleSkip _ | .dIdleEsc => some .idle
  | .dEscBegin | .dEscBeginNested | .dEscEnd | .dEscEndStray | .dEscLitesc | .dEscLitzero
  | .dEscLitescStray | .dEscLitzeroStray | .dEscUnknown _ => some .escaped
  | .dFrameEsc | .dFrameData _ => some .inFrame
  | .ePreamble | .eZero | .eEscape | .eVerbatim _ | .ePostamble => none

/-- R85 column "frame_open"; `none` where the row is selected with either value. -/
def Instr.rowOpen : Instr → Option Bool
  | .dIdleSkip _ | .dIdleEsc | .dEscBegin | .dEscEndStray | .dEscLitescStray | .dEscLitzeroStray => some false
  | .dEscBeginNested | .dEscEnd | .dEscLitesc | .dEscLitzero | .dFrameEsc | .dFrameData _ => some true
  | .dEscUnknown _ | .ePreamble | .eZero | .eEscape | .eVerbatim _ | .ePostamble => none

/-- R85, R13 "Encoding": the row's operand is well-formed and its mode and frame-open columns agree with the state. -/
def Instr.selectedBy (c : Config) (m : Mode) (frameOpen : Bool) (i : Instr) : Bool :=
  i.wf c && (i.rowMode.all (· == m)) && (i.rowOpen.all (· == frameOpen))

/-- Whether a row is one of the decoder's thirteen. -/
def Instr.isDecoderRow (i : Instr) : Bool := i.rowMode.isSome

/-- The context in which a word of spec/opcode_table.json is read. One byte value stands in several rows, which
differ by mode and frame_open (and by unit) and not by a bit of the word, so the model reads a table word as THE FIRST ROW OF THE
TABLE THAT FIXES IT, and a byte that no row fixes as the first default row, D.IDLE.SKIP; a row of no bits is
E.PREAMBLE (log entry 7, DESIGN CHOICE). -/
def tableRow (c : Config) (nbits w : Nat) : Option (Mode × Bool × Sel) :=
  if nbits = 0 then some (.idle, false, .enc .payloadStart)
  else if nbits = 8 ∧ w < 256 then
    let b : Byte := BitVec.ofNat 8 w
    if b = c.escape then some (.idle, false, .rx b)
    else if b = c.frameBegin then some (.escaped, false, .rx b)
    else if b = c.frameEnd then some (.escaped, true, .rx b)
    else if b = c.literalEscape then some (.escaped, true, .rx b)
    else if b = c.literalZero then some (.escaped, true, .rx b)
    else if b = 0x00#8 then some (.idle, false, .enc (.payloadByte b))
    else some (.idle, false, .rx b)
  else none

/-- The row the decoder reads from a word of spec/opcode_table.json, which is written in REF's byte values (R82). -/
def decodeTableWord (nbits w : Nat) : Option Instr :=
  match tableRow Config.ref nbits w with
  | none => none
  | some (m, fo, x) =>
    match decode Config.ref m fo x with
    | .ok i => some i
    | .error _ => none

end Sys2Proof
end

