-- ==== Sys2Proof/Machine/State.lean ====
section
/-! DEFINITION. The state of the block (10_state.md), its outputs, the requests of its environment, the reasons a step
stops, and the state after reset (R36, R37). -/

namespace Sys2Proof.Machine

/-- 60_exceptions.md R190: the five conditions the decoder detects. `payloadOverflow` is reported by the `ovf` strobe
only and is never the reason of an event (R195). -/
inductive Reason where
  | unexpectedBegin
  | unexpectedEnd
  | unknownControlSequence
  | payloadOverflow
  | literalOutsideFrame
  deriving DecidableEq, Repr

/-- 40_decoder.md R100: `DecodeEvent`. The payload is a copy (20_memory.md R54). -/
inductive Event where
  | none
  | frameReady (payload : Bytes)
  | protocolError (reason : Reason)
  deriving DecidableEq, Repr

/-- 10_state.md R20: the decoder's three state elements and nothing else. -/
structure Decoder where
  mode      : Mode
  frameOpen : Bool
  payload   : Bytes
  deriving DecidableEq, Repr

/-- 10_state.md R28: `e_phase`, which byte of the frame comes next. -/
inductive SerPhase where
  | idle | preEsc | preMark | body | bodyMark | postEsc | postMark
  deriving DecidableEq, Repr

/-- 10_state.md R28: the serializer's three state elements. -/
structure Serializer where
  phase : SerPhase
  buf   : Bytes
  idx   : Nat
  deriving DecidableEq, Repr

/-- A request of the environment that runs no row of the transition map (92_eei_decisions.md D29). -/
inductive Op where
  /-- R101: a tick whose poll returned no byte. -/
  | noByte
  /-- R150: load a payload into the serializer. -/
  | start (p : Bytes)
  /-- R151 to R157: one serializer step. -/
  | tick
  /-- R140: a call of the encoder function. -/
  | encode (p : Bytes)
  /-- R231, R232: reset of the whole block. -/
  | reset
  /-- R231: reset of the decoder alone. -/
  | resetDecoder
  /-- R232: reset of the serializer alone. -/
  | resetSerializer
  deriving DecidableEq, Repr

/-- 60_exceptions.md R211: what the environment hands to the block, one request a step. -/
inductive Input where
  /-- R100: the poll returned this byte, and it is fed to the decoder. -/
  | byte (b : Byte)
  | op (o : Op)
  deriving DecidableEq, Repr

/-- The state of the machine. `dec` and `ser` are the spec's state elements (R20, R28); `encOut` and `serOut` are the
outbound stream (R50(b)) as the function form and the serializer write it; `event` and `ovf` are the outputs of the
last step (R30), which no step reads; `cfg` is the constant configuration (R31), which no step writes; `inputs` and
`encWalk` are the requests and the encode call not yet served. -/
structure State where
  cfg     : Config
  dec     : Decoder
  ser     : Serializer
  encWalk : List EncTok
  inputs  : List Input
  event   : Event
  ovf     : Bool
  encOut  : Bytes
  serOut  : Bytes
  deriving DecidableEq, Repr

/-- The block has no fault: "Nothing in the block is `fault` or `stuck`" (93_implementation_defined.md; R203, R159).
There is no constructor, so nobody raises one. That is safe: no claim can rest on a fault the hardware lacks. -/
inductive Fault
  deriving DecidableEq, Repr

/-- Why a step has no meaning. Every one is a stop of the spec's own or of an unselected row, and every one is safe: the
machine stops where the spec gives no behaviour. -/
inductive Refusal where
  /-- Raised by an arm of exec without a meaning; no arm of this model is such. Safe. -/
  | notModelled (mnemonic : String)
  /-- Raised by every row and operation under an ill-formed configuration (R8: "refused"). Safe. -/
  | illFormedConfig
  /-- Raised by a decoder row in a state that violates R24 (R25: "a model refuses it"). Safe. -/
  | unreachableDecoderState
  /-- Raised by `tick` in a state that violates the invariants of R28, which its rules presuppose (R154, R155). Safe. -/
  | unreachableSerializerState
  /-- Raised by a row that the state and the row's operand do not select (R13, R85; D7: never mapped to a neighbouring
  state). `step` never comes here. Safe. -/
  | rowNotSelected
  /-- Raised by `start` while a frame is in flight (R150: "refused"). Safe. -/
  | startWhileBusy
  /-- Raised by `start` with more than ENC_CAP bytes (R150: "refused"). Safe. -/
  | startTooLong
  deriving DecidableEq, Repr

/-- R36: the decoder's reset state. -/
def Decoder.reset : Decoder := { mode := .idle, frameOpen := false, payload := [] }

/-- R37: the serializer's reset state. -/
def Serializer.reset : Serializer := { phase := .idle, buf := [], idx := 0 }

/-- R36, R37, R233: the state after reset under a configuration. -/
def State.resetWith (c : Config) : State where
  cfg     := c
  dec     := Decoder.reset
  ser     := Serializer.reset
  encWalk := []
  inputs  := []
  event   := .none
  ovf     := false
  encOut  := []
  serOut  := []

/-- The state after reset under the reference configuration (log entry 2). -/
def State.reset : State := State.resetWith Config.ref

end Sys2Proof.Machine
end

