-- ==== Sys2Proof/Machine/Operands.lean ====
section
/-! DEFINITION. Where an append goes, what is read, what a token contributes, and what an item looks like on the wire
(20_memory.md R51, 30_encoding.md R71 to R76, 41_encoder.md R140 to R143). -/

namespace Sys2Proof.Machine

/-- R51, R52: the one write address, the end of the payload; none when the buffer is full. -/
def appendAddr (c : Config) (d : Decoder) : Option Nat :=
  if d.payload.length < c.cap then some d.payload.length else none

/-- R12 `MemRead(addr, 1)`: the payload byte at an index; the cells at and above the length hold no value (R23). -/
def memRead (d : Decoder) (addr : Nat) : Option Byte := d.payload[addr]?

/-- R76: the value of `ESCAPE`,`LITERAL_ESCAPE`. -/
def litEscapeValue (c : Config) : Byte := c.escape

/-- R76: the value of `ESCAPE`,`LITERAL_ZERO`. -/
def litZeroValue : Byte := 0x00#8

/-- R71: an item of a frame. -/
inductive Item where
  | raw (b : Byte)
  | literalZero
  | literalEscape
  deriving DecidableEq, Repr

/-- R71: a raw item is any byte but `ESCAPE`. -/
def itemWf (c : Config) : Item → Bool
  | .raw b => b != c.escape
  | .literalZero | .literalEscape => true

/-- R72, R74: the wire bytes of an item. -/
def itemWire (c : Config) : Item → Bytes
  | .raw b => [b]
  | .literalZero => [c.escape, c.literalZero]
  | .literalEscape => [c.escape, c.literalEscape]

/-- R76: the payload byte an item contributes. -/
def itemValue (c : Config) : Item → Byte
  | .raw b => b
  | .literalZero => litZeroValue
  | .literalEscape => litEscapeValue c

/-- The wire bytes of a sequence of items, in order (R55). -/
def itemsWire (c : Config) (q : List Item) : Bytes := q.flatMap (itemWire c)

/-- R84 `SOF`, R144. -/
def wireBegin (c : Config) : Bytes := [c.escape, c.frameBegin]

/-- R84 `EOF`, R145. -/
def wireEnd (c : Config) : Bytes := [c.escape, c.frameEnd]

/-- R140: the bytes of one payload byte, in the order of tests of R146. -/
def stuff (c : Config) (v : Byte) : Bytes :=
  if v = 0x00#8 then [c.escape, c.literalZero]
  else if v = c.escape then [c.escape, c.literalEscape]
  else [v]

/-- R140: the encoder as the pure function the source defines, for every payload length. -/
def encodeMessage (c : Config) (p : Bytes) : Bytes :=
  wireBegin c ++ p.flatMap (stuff c) ++ wireEnd c

/-- R140: the elements the encoder walks, in order: the start, every byte, the end. -/
def payloadWalk (p : Bytes) : List EncTok :=
  .payloadStart :: (p.map .payloadByte ++ [.payloadEnd])

end Sys2Proof.Machine
end

