-- ==== Sys2Proof/Machine/Flags.lean ====
section
/-! DEFINITION. The computed flags: the overflow strobe, the error codes, and the invariants that say which states are
reachable (10_state.md R24, R28, R30; 60_exceptions.md R190). The other flag, `frame_open`, is state (R22). -/

namespace Sys2Proof.Machine

/-- R30, R52: the strobe of a step that appends: 1 exactly when the byte has no cell to go to. -/
def ovfOnAppend (c : Config) (d : Decoder) : Bool := (appendAddr c d).isNone

/-- 20_memory.md R51, R52: the payload buffer never holds more than `CAP` bytes. -/
def Memory.wf (c : Config) (payload : Bytes) : Bool := decide (payload.length ≤ c.cap)

/-- R24 (I2) to (I5); (I1) holds by the type of `mode`. -/
def Decoder.inv (c : Config) (d : Decoder) : Bool :=
  decide ((d.mode = .idle → d.frameOpen = false) ∧ (d.mode = .inFrame → d.frameOpen = true) ∧
    (d.frameOpen = false → d.payload = []) ∧ Memory.wf c d.payload = true)

/-- R28 "Invariants", with the bounds of its table. -/
def Serializer.inv (c : Config) (z : Serializer) : Bool :=
  decide (z.buf.length ≤ c.encCap ∧ z.idx ≤ z.buf.length ∧
    (z.phase = .body ∨ z.phase = .bodyMark → z.idx < z.buf.length) ∧
    (z.phase = .bodyMark → z.buf[z.idx]? = some 0x00#8 ∨ z.buf[z.idx]? = some c.escape) ∧
    (z.phase = .postEsc ∨ z.phase = .postMark → z.idx = z.buf.length) ∧
    (z.phase = .preEsc ∨ z.phase = .preMark → z.idx = 0))

/-- R190: the code of a condition, 0 meaning no error. Codes carry no behaviour (D12). -/
def reasonCode : Option Reason → Nat
  | none => 0
  | some .unexpectedBegin => 1
  | some .unexpectedEnd => 2
  | some .unknownControlSequence => 3
  | some .payloadOverflow => 4
  | some .literalOutsideFrame => 5

end Sys2Proof.Machine
end

