-- ==== Sys2Proof/Machine/Ops.lean ====
section
/-! DEFINITION. The named operations the rows are made of: the payload buffer's three (20_memory.md R52 to R54), the
event output (00_scope.md R12), the one recovery every protocol error takes (60_exceptions.md R201), and the guards that
say when a row has a meaning (10_state.md R25, 00_scope.md R8, R13). -/

namespace Sys2Proof.Machine

/-- R52 `PayAppend(v)`, its state: the byte goes to the end, or is lost when the buffer is full. -/
def payAppend (c : Config) (d : Decoder) (v : Byte) : Decoder :=
  match appendAddr c d with
  | some _ => { d with payload := d.payload ++ [v] }
  | none => d

/-- R53 `PayClear()`. -/
def payClear (d : Decoder) : Decoder := { d with payload := [] }

/-- R54: the copy handed off at completion, `payload[0 : len(payload)]`. -/
def handOff (d : Decoder) : Bytes := d.payload

/-- R12 `emit e`, with the step's `ovf`: both outputs are written by every step (R30, R37). -/
def emit (e : Event) (ovf : Bool) (s : State) : State := { s with event := e, ovf := ovf }

/-- R12 `mode <- m`. -/
def setMode (m : Mode) (s : State) : State := { s with dec := { s.dec with mode := m } }

/-- R201, the state change: close, clear, Idle. -/
def recover (d : Decoder) : Decoder := { payClear { d with frameOpen := false } with mode := .idle }

/-- R201 `raise <Reason>`: the block's exception entry. Nothing is saved, and there is nothing to return from (R202). -/
def raise (r : Reason) (s : State) : State :=
  emit (.protocolError r) false { s with dec := recover s.dec }

/-- R108, R109, R114: append, with `ovf` from the buffer as it was before the step, no event, mode InFrame. -/
def appendAndStay (v : Byte) (s : State) : State :=
  setMode .inFrame
    (emit .none (ovfOnAppend s.cfg s.dec) { s with dec := payAppend s.cfg s.dec v })

/-- R12 `out`: the emission rules append to the outbound stream; outside a decoder step the event and `ovf` read
None and 0 (R37). -/
def outBytes (bs : Bytes) (s : State) : State := emit .none false { s with encOut := s.encOut ++ bs }

/-- A decoder row has a meaning in the reachable states that select it, under a well-formed configuration, and in no
other state (R8, R25, R100). -/
def decoderRow (i : Instr) (body : State → State) (s : State) : Host.Outcome State Fault Refusal :=
  if s.cfg.wf then
    if s.dec.inv s.cfg then
      if i.selectedBy s.cfg s.dec.mode s.dec.frameOpen then .next (body s)
      else .refused .rowNotSelected
    else .refused .unreachableDecoderState
  else .refused .illFormedConfig

/-- An emission row reads its operand and the configuration only (R140). -/
def encoderRow (i : Instr) (body : State → State) (s : State) : Host.Outcome State Fault Refusal :=
  if s.cfg.wf then
    if i.wf s.cfg then .next (body s) else .refused .rowNotSelected
  else .refused .illFormedConfig

end Sys2Proof.Machine
end

