-- ==== Sys2Proof/Machine/EncoderRows.lean ====
section
/-! DEFINITION. The emission rows of the encoder function (41_encoder.md R141 to R145). The serializer, which emits the
same bytes one a tick, is Machine/Serializer.lean's. -/

namespace Sys2Proof.Machine

/-- R144 `E.PREAMBLE`. -/
def execEPreamble (s : State) : Host.Outcome State Fault Refusal :=
  encoderRow .ePreamble (fun s => outBytes [s.cfg.escape, s.cfg.frameBegin] s) s

/-- R141 `E.ZERO`. -/
def execEZero (s : State) : Host.Outcome State Fault Refusal :=
  encoderRow .eZero (fun s => outBytes [s.cfg.escape, s.cfg.literalZero] s) s

/-- R142 `E.ESCAPE`; the value tested is the decoder's `ESCAPE` (R149). -/
def execEEscape (s : State) : Host.Outcome State Fault Refusal :=
  encoderRow .eEscape (fun s => outBytes [s.cfg.escape, s.cfg.literalEscape] s) s

/-- R143 `E.VERBATIM`. -/
def execEVerbatim (v : Byte) (s : State) : Host.Outcome State Fault Refusal :=
  encoderRow (.eVerbatim v) (outBytes [v]) s

/-- R145 `E.POSTAMBLE`. -/
def execEPostamble (s : State) : Host.Outcome State Fault Refusal :=
  encoderRow .ePostamble (fun s => outBytes [s.cfg.escape, s.cfg.frameEnd] s) s

end Sys2Proof.Machine
end

