-- ==== Sys2Proof/Machine/EscapedRows.lean ====
section
/-! DEFINITION. The rows of mode Escaped (40_decoder.md R104 to R112). -/

namespace Sys2Proof.Machine

/-- R104 `D.ESC.BEGIN`: opens a frame, the only row that does. -/
def execDEscBegin (s : State) : Host.Outcome State Fault Refusal :=
  decoderRow .dEscBegin
    (fun s => emit .none false (setMode .inFrame { s with dec := payClear { s.dec with frameOpen := true } })) s

/-- R105 `D.ESC.BEGIN.NESTED`. -/
def execDEscBeginNested (s : State) : Host.Outcome State Fault Refusal :=
  decoderRow .dEscBeginNested (raise .unexpectedBegin) s

/-- R106 `D.ESC.END`: hands off the payload as it was before the step, closes and clears. -/
def execDEscEnd (s : State) : Host.Outcome State Fault Refusal :=
  decoderRow .dEscEnd
    (fun s => emit (.frameReady (handOff s.dec)) false
      (setMode .idle { s with dec := payClear { s.dec with frameOpen := false } })) s

/-- R107 `D.ESC.END.STRAY`. -/
def execDEscEndStray (s : State) : Host.Outcome State Fault Refusal :=
  decoderRow .dEscEndStray (raise .unexpectedEnd) s

/-- R108 `D.ESC.LITESC`: appends the value of `ESCAPE`. -/
def execDEscLitesc (s : State) : Host.Outcome State Fault Refusal :=
  decoderRow .dEscLitesc (fun s => appendAndStay (litEscapeValue s.cfg) s) s

/-- R109 `D.ESC.LITZERO`: appends 0x00. -/
def execDEscLitzero (s : State) : Host.Outcome State Fault Refusal :=
  decoderRow .dEscLitzero (appendAndStay litZeroValue) s

/-- R110 `D.ESC.LITESC.STRAY`. -/
def execDEscLitescStray (s : State) : Host.Outcome State Fault Refusal :=
  decoderRow .dEscLitescStray (raise .literalOutsideFrame) s

/-- R111 `D.ESC.LITZERO.STRAY`. -/
def execDEscLitzeroStray (s : State) : Host.Outcome State Fault Refusal :=
  decoderRow .dEscLitzeroStray (raise .literalOutsideFrame) s

/-- R112 `D.ESC.UNKNOWN`: with a frame open or not. -/
def execDEscUnknown (b : Byte) (s : State) : Host.Outcome State Fault Refusal :=
  decoderRow (.dEscUnknown b) (raise .unknownControlSequence) s

end Sys2Proof.Machine
end

