-- ==== Sys2Proof/Machine/FrameRows.lean ====
section
/-! DEFINITION. The rows of mode InFrame (40_decoder.md R113, R114). -/

namespace Sys2Proof.Machine

/-- R113 `D.FRAME.ESC`: the frame stays open, nothing is appended. -/
def execDFrameEsc (s : State) : Host.Outcome State Fault Refusal :=
  decoderRow .dFrameEsc (fun s => emit .none false (setMode .escaped s)) s

/-- R114 `D.FRAME.DATA`: the byte is appended verbatim. -/
def execDFrameData (b : Byte) (s : State) : Host.Outcome State Fault Refusal :=
  decoderRow (.dFrameData b) (appendAndStay b) s

end Sys2Proof.Machine
end

