-- ==== Sys2Proof/Machine/IdleRows.lean ====
section
/-! DEFINITION. The rows of mode Idle (40_decoder.md R102, R103). -/

namespace Sys2Proof.Machine

/-- R102 `D.IDLE.SKIP`: the byte is discarded. -/
def execDIdleSkip (b : Byte) (s : State) : Host.Outcome State Fault Refusal :=
  decoderRow (.dIdleSkip b) (emit .none false) s

/-- R103 `D.IDLE.ESC`: the byte is consumed and the next one is a marker. -/
def execDIdleEsc (s : State) : Host.Outcome State Fault Refusal :=
  decoderRow .dIdleEsc (fun s => emit .none false (setMode .escaped s)) s

end Sys2Proof.Machine
end

