-- ==== Sys2Proof/Machine/Dispatch.lean ====
section
/-! DEFINITION. One arm per row of the transition map (30_encoding.md R85). -/

namespace Sys2Proof.Machine

def exec (i : Instr) (s : State) : Host.Outcome State Fault Refusal :=
  match i with
  | .dIdleSkip b => Sys2Proof.Machine.execDIdleSkip b s
  | .dIdleEsc => Sys2Proof.Machine.execDIdleEsc s
  | .dEscBegin => Sys2Proof.Machine.execDEscBegin s
  | .dEscBeginNested => Sys2Proof.Machine.execDEscBeginNested s
  | .dEscEnd => Sys2Proof.Machine.execDEscEnd s
  | .dEscEndStray => Sys2Proof.Machine.execDEscEndStray s
  | .dEscLitesc => Sys2Proof.Machine.execDEscLitesc s
  | .dEscLitzero => Sys2Proof.Machine.execDEscLitzero s
  | .dEscLitescStray => Sys2Proof.Machine.execDEscLitescStray s
  | .dEscLitzeroStray => Sys2Proof.Machine.execDEscLitzeroStray s
  | .dEscUnknown b => Sys2Proof.Machine.execDEscUnknown b s
  | .dFrameEsc => Sys2Proof.Machine.execDFrameEsc s
  | .dFrameData b => Sys2Proof.Machine.execDFrameData b s
  | .ePreamble => Sys2Proof.Machine.execEPreamble s
  | .eZero => Sys2Proof.Machine.execEZero s
  | .eEscape => Sys2Proof.Machine.execEEscape s
  | .eVerbatim v => Sys2Proof.Machine.execEVerbatim v s
  | .ePostamble => Sys2Proof.Machine.execEPostamble s

end Sys2Proof.Machine
end

