-- ==== Sys2Proof/Machine/Serializer.lean ====
section
/-! DEFINITION. The serializer: `start` and the seven phases of `tick` (41_encoder.md R150 to R157). -/

namespace Sys2Proof.Machine

/-- R154, R155: the index moves past the byte just sent; the body goes on or the end of the frame follows. -/
def serAdvance (z : Serializer) : Serializer :=
  { z with idx := z.idx + 1, phase := if z.idx + 1 < z.buf.length then .body else .postEsc }

/-- R154: a raw byte is sent and done with; a byte that must be stuffed is announced by `ESCAPE`. -/
def serBody (c : Config) (z : Serializer) (v : Byte) : Serializer × Byte :=
  if v = 0x00#8 ∨ v = c.escape then ({ z with phase := .bodyMark }, c.escape) else (serAdvance z, v)

/-- R155: the marker of a stuffed byte. -/
def serBodyMark (c : Config) (z : Serializer) (v : Byte) : Serializer × Byte :=
  (serAdvance z, if v = 0x00#8 then c.literalZero else c.literalEscape)

/-- R152 to R157: the serializer after a tick in a phase that emits, and the byte emitted. `none` in E_IDLE, which emits
nothing, and where there is no `e_buf[e_idx]`. -/
def serEmit (c : Config) (z : Serializer) : Option (Serializer × Byte) :=
  match z.phase with
  | .idle => none
  | .preEsc => some ({ z with phase := .preMark }, c.escape)
  | .preMark => some ({ z with phase := if 0 < z.buf.length then .body else .postEsc }, c.frameBegin)
  | .body => (z.buf[z.idx]?).map (serBody c z)
  | .bodyMark => (z.buf[z.idx]?).map (serBodyMark c z)
  | .postEsc => some ({ z with phase := .postMark }, c.escape)
  | .postMark => some ({ z with phase := .idle }, c.frameEnd)

/-- R151 to R157 `tick`. In E_IDLE nothing happens; elsewhere the invariants of R28 are presupposed. -/
def serTick (s : State) : Host.Outcome State Fault Refusal :=
  if s.ser.phase = .idle then .next (emit .none false s)
  else if s.ser.inv s.cfg then
    match serEmit s.cfg s.ser with
    | some (z, b) => .next (emit .none false { s with ser := z, serOut := s.serOut ++ [b] })
    | none => .refused .unreachableSerializerState
  else .refused .unreachableSerializerState

/-- R150 `start(p)`. -/
def serStart (p : Bytes) (s : State) : Host.Outcome State Fault Refusal :=
  if s.ser.phase ≠ .idle then .refused .startWhileBusy
  else if s.cfg.encCap < p.length then .refused .startTooLong
  else .next (emit .none false { s with ser := { phase := .preEsc, buf := p, idx := 0 } })

end Sys2Proof.Machine
end

