-- ==== Sys2Proof/Machine/Environment.lean ====
section
/-! DEFINITION. The requests of the environment that run no row of the transition map: a tick without a byte
(40_decoder.md R101), the encoder call (41_encoder.md R140), the serializer's operations (R150 to R157) and reset
(70_reset_and_hazards.md R230 to R232). -/

namespace Sys2Proof.Machine

/-- R101: no decoder step; the outputs read None and 0. -/
def noByteTick (s : State) : State := emit .none false s

/-- R140: the call puts the walk over its payload before the machine; each element then runs its row. -/
def encodeCall (p : Bytes) (s : State) : State := emit .none false { s with encWalk := payloadWalk p }

/-- R231: the decoder as after creation; a partial payload is discarded without any event. -/
def resetDecoder (s : State) : State := emit .none false { s with dec := Decoder.reset }

/-- R232: the serializer as after creation; a frame being sent is cut off on the wire. -/
def resetSerializer (s : State) : State := emit .none false { s with ser := Serializer.reset }

/-- R8: under an ill-formed configuration no operation has a meaning. -/
def runOp (o : Op) (s : State) : Host.Outcome State Fault Refusal :=
  if s.cfg.wf then
    match o with
    | .noByte => .next (noByteTick s)
    | .start p => serStart p s
    | .tick => serTick s
    | .encode p => .next (encodeCall p s)
    | .reset => .next (resetSerializer (resetDecoder s))
    | .resetDecoder => .next (resetDecoder s)
    | .resetSerializer => .next (resetSerializer s)
  else .refused .illFormedConfig

end Sys2Proof.Machine
end

