-- ==== Sys2Proof/Machine/Fetch.lean ====
section
/-! DEFINITION. What the machine does next, and running a row by the input that selects it (40_decoder.md R100,
60_exceptions.md R211). The block has no program counter (10_state.md R34): its "fetch" takes the next element of an
encode call in progress, else the environment's next request; with neither, the tick brings no byte (R101). -/

namespace Sys2Proof.Machine

/-- What a step does, with the state in which it does it. -/
inductive Work where
  | row (w : Sel) (s : State)
  | op (o : Op) (s : State)
  deriving DecidableEq, Repr

/-- Taking what is to be done next: an encode call is finished before the next request is looked at (R59, R211), and the
requests are taken in order (R62). -/
def fetch (s : State) : Work :=
  match s.encWalk with
  | t :: rest => .row (.enc t) { s with encWalk := rest }
  | [] =>
    match s.inputs with
    | .byte b :: rest => .row (.rx b) { s with inputs := rest }
    | .op o :: rest => .op o { s with inputs := rest }
    | [] => .op .noByte s

/-- Why a rejected input is refused. -/
def refusalOf : Reject → Refusal
  | .illFormedConfig => .illFormedConfig
  | .idleWhileOpen => .unreachableDecoderState
  | .inFrameWhileClosed => .unreachableDecoderState

/-- The row an input selects is run (R85). -/
def runRow (w : Sel) (s : State) : Host.Outcome State Fault Refusal :=
  match decode s.cfg s.dec.mode s.dec.frameOpen w with
  | .ok i => exec i s
  | .error r => .refused (refusalOf r)

/-- R100 `feed(byte)`: one decoder step. -/
def feed (s : State) (b : Byte) : Host.Outcome State Fault Refusal := runRow (.rx b) s

/-- The decoder put into the mode a table word is read in; a closed frame has an empty payload (R24, I4). -/
def placeDecoder (m : Mode) (frameOpen : Bool) (d : Decoder) : Decoder :=
  { mode := m, frameOpen := frameOpen, payload := if frameOpen then d.payload else [] }

/-- The state in which the next step runs the row of a table word: the context of the row, and its input as what is
fetched next (log entry 7). -/
def placeWord (s : State) (nbits w : Nat) : State :=
  match tableRow s.cfg nbits w with
  | none => s
  | some (_, _, .enc t) => { s with encWalk := t :: s.encWalk }
  | some (m, fo, .rx b) =>
    { s with dec := placeDecoder m fo s.dec, encWalk := [], inputs := .byte b :: s.inputs }

end Sys2Proof.Machine
end

