-- ==== Sys2Proof/Machine/Step.lean ====
section
/-! DEFINITION. One step of the machine: what is fetched is done. -/

namespace Sys2Proof.Machine

/-- One atomic step (20_memory.md R59): a row of the transition map or an operation of the environment. -/
def step (s : State) : Host.Outcome State Fault Refusal :=
  match fetch s with
  | .row w s' => runRow w s'
  | .op o s' => runOp o s'

/-- The state whose next step runs the row of a word of spec/opcode_table.json (log entry 7). -/
def State.withFetchWord (s : State) (nbits w : Nat) : State := placeWord s nbits w

end Sys2Proof.Machine
end

