-- ==== Sys2Proof/Machine/Run.lean ====
section
/-! DEFINITION. Finite runs and what an environment that reads every event sees of them (42_laws.md, "Definitions used
below"; 40_decoder.md R117). -/

namespace Sys2Proof.Machine

/-- What a finite run yields: the final state, the events other than None in step order, and the number of steps with
`ovf` = 1. -/
structure RunResult where
  state    : State
  events   : List Event
  ovfSteps : Nat
  deriving DecidableEq, Repr

/-- The event of a step, as a list without None. -/
def eventList : Event → List Event
  | .none => []
  | .frameReady p => [.frameReady p]
  | .protocolError r => [.protocolError r]

/-- The outputs of the step that led to `t`, put before the rest of the run. -/
def record (t : State) : Host.Outcome RunResult Fault Refusal → Host.Outcome RunResult Fault Refusal
  | .next r => .next { r with events := eventList t.event ++ r.events, ovfSteps := t.ovf.toNat + r.ovfSteps }
  | .fault f => .fault f
  | .refused r => .refused r

/-- 42_laws.md `run(s, w)`: the bytes of `w` fed one after another. -/
def run : State → Bytes → Host.Outcome RunResult Fault Refusal
  | s, [] => .next { state := s, events := [], ovfSteps := 0 }
  | s, b :: w =>
    match feed s b with
    | .next t => record t (run t w)
    | .fault f => .fault f
    | .refused r => .refused r

/-- `n` steps of the machine, with what they output. -/
def observe : Nat → State → Host.Outcome RunResult Fault Refusal
  | 0, s => .next { state := s, events := [], ovfSteps := 0 }
  | n + 1, s =>
    match step s with
    | .next t => record t (observe n t)
    | .fault f => .fault f
    | .refused r => .refused r

/-- `n` steps of the machine. -/
def runSteps : Nat → State → Host.Outcome State Fault Refusal
  | 0, s => .next s
  | n + 1, s =>
    match step s with
    | .next t => runSteps n t
    | .fault f => .fault f
    | .refused r => .refused r

/-- What an environment sees of a run: the decoder it leaves, the events, the number of `ovf` steps. -/
def observed : Host.Outcome RunResult Fault Refusal → Option (Decoder × List Event × Nat)
  | .next r => some (r.state.dec, r.events, r.ovfSteps)
  | .fault _ => none
  | .refused _ => none

/-- The result of one poll as a request (R101, R211). -/
def pollInput : Option Byte → Input
  | some b => .byte b
  | none => .op .noByte

/-- The state without the outputs of its last step, which are not state (R30). -/
def withoutOutputs (s : State) : State := { s with event := .none, ovf := false }

end Sys2Proof.Machine
end

