-- ==== Sys2Proof/Safety.lean ====
section
/-! DEFINITION. The invariant of the machine: the states a run can reach (10_state.md R24, R28), and what its outputs can
be (42_laws.md R181, R183; 60_exceptions.md R195). -/

namespace Sys2Proof.Machine

/-- What is left of an encode call once its first element is taken: payload bytes and then the end (R140). -/
def walkRest : List EncTok → Bool
  | [] => false
  | .payloadStart :: _ => false
  | .payloadByte _ :: rest => walkRest rest
  | .payloadEnd :: rest => rest.isEmpty

/-- The walk of an encode call at any of its steps: finished, not begun, or under way (R140, R144, R145). -/
def walkWf : List EncTok → Bool
  | [] => true
  | .payloadStart :: rest => walkRest rest
  | .payloadByte v :: rest => walkRest (.payloadByte v :: rest)
  | .payloadEnd :: rest => walkRest (.payloadEnd :: rest)

/-- What an event can be: a delivered payload fits the buffer (R183) and overflow is no event (R195). -/
def eventFits (c : Config) : Event → Bool
  | .none => true
  | .frameReady p => p.length ≤ c.cap
  | .protocolError r => r != .payloadOverflow

/-- What the outputs of a step can be: an event leaves the decoder in its reset state (R181) and comes in a step that
drops no byte (R52, R200). -/
abbrev OutputsInv (s : State) : Prop :=
  (s.event ≠ .none → s.dec = Decoder.reset ∧ s.ovf = false) ∧ eventFits s.cfg s.event = true

/-- The invariant of the machine. -/
abbrev State.Inv (s : State) : Prop :=
  s.cfg.wf = true ∧ s.dec.inv s.cfg = true ∧ s.ser.inv s.cfg = true ∧ walkWf s.encWalk = true ∧ OutputsInv s

/-- The states in which the rows of a mode and a value of the frame-open flag execute (R85, R100): the configuration is
well-formed, the decoder state is reachable, and the two columns agree. -/
abbrev DecoderReady (s : State) (m : Mode) (frameOpen : Bool) : Prop :=
  s.cfg.wf = true ∧ s.dec.inv s.cfg = true ∧ s.dec.mode = m ∧ s.dec.frameOpen = frameOpen

end Sys2Proof.Machine
end

