-- ==== Sys2Proof/Certificates/Slice0/Obligations.lean ====
section
/-! DEFINITION. The statements of this model. They quantify over the configuration (00_scope.md R8, R9): it is a field of
the state, so a statement about every state is one about every configuration. -/

open Sys2Proof Sys2Proof.Machine

/-! ## The transition map -/

/-- The rows of R85, read both ways: in every context that selects a row, the row's input is read as the row, with
every operand. -/
def Obligations.EveryRowDecodesBackFromItsInput : Prop :=
  ∀ (c : Config) (m : Mode) (fo : Bool) (i : Instr), c.wf = true → i.selectedBy c m fo = true →
    decode c m fo (i.encode c) = .ok i

/-- R85: what is decoded is a row that the context selects, and the input is that row's input. -/
def Obligations.DecodedRowIsSelectedAndHasThatInput : Prop :=
  ∀ (c : Config) (m : Mode) (fo : Bool) (w : Sel) (i : Instr), decode c m fo w = .ok i →
    c.wf = true ∧ i.selectedBy c m fo = true ∧ i.encode c = w

/-- R85, R100: the selecting conditions partition the (reachable state, byte) pairs. -/
def Obligations.EachReachableStateAndByteSelectExactlyOneRow : Prop :=
  ∀ (c : Config) (d : Decoder) (b : Byte), c.wf = true → d.inv c = true →
    ∃ i : Instr, (i.selectedBy c d.mode d.frameOpen = true ∧ i.encode c = .rx b) ∧
      ∀ j : Instr, j.selectedBy c d.mode d.frameOpen = true → j.encode c = .rx b → j = i

/-- R82: a few words of the map in REF; the values but 0x41 are the spec's reference choice (D2). -/
def Obligations.ReferenceBytesSelectTheirRows : Prop :=
  decode Config.ref .idle false (.rx 0b01000001#8) = .ok .dIdleEsc ∧
  decode Config.ref .idle false (.rx 0b01000010#8) = .ok (.dIdleSkip 0b01000010#8) ∧
  decode Config.ref .escaped false (.rx 0b01000010#8) = .ok .dEscBegin ∧
  decode Config.ref .escaped true (.rx 0b01000011#8) = .ok .dEscEnd ∧
  decode Config.ref .escaped true (.rx 0b01000001#8) = .ok (.dEscUnknown 0b01000001#8) ∧
  decode Config.ref .inFrame true (.rx 0b01000101#8) = .ok (.dFrameData 0b01000101#8) ∧
  decode Config.ref .idle false (.enc (.payloadByte 0b01000001#8)) = .ok .eEscape ∧
  decode Config.ref .idle false (.enc (.payloadByte 0b01100001#8)) = .ok (.eVerbatim 0b01100001#8)

/-- R77, R75: the number of unknown second bytes in any well-formed configuration; `ESCAPE` is one of them. -/
def Obligations.UnknownMarkersAreTwoHundredFiftyTwo : Prop :=
  ∀ c : Config, c.wf = true →
    (List.range 256).countP (fun n => decide (cls2 c (BitVec.ofNat 8 n) = .other)) = 252 ∧
    cls2 c c.escape = .other

/-! ## The decoder's rows -/

/-- R102. -/
def Obligations.IdleSkipDiscardsTheByte : Prop :=
  ∀ (s : State) (b : Byte), DecoderReady s .idle false → b ≠ s.cfg.escape →
    decode s.cfg s.dec.mode s.dec.frameOpen (.rx b) = .ok (.dIdleSkip b) ∧
    exec (.dIdleSkip b) s = .next { s with event := .none, ovf := false }

/-- R103. -/
def Obligations.IdleEscapeEntersEscaped : Prop :=
  ∀ s : State, DecoderReady s .idle false →
    decode s.cfg s.dec.mode s.dec.frameOpen (.rx s.cfg.escape) = .ok .dIdleEsc ∧
    exec .dIdleEsc s =
      .next { s with dec := { mode := .escaped, frameOpen := false, payload := [] }, event := .none, ovf := false }

/-- R104; it is the only row that sets the flag. -/
def Obligations.BeginOpensAnEmptyFrame : Prop :=
  (∀ s : State, DecoderReady s .escaped false →
    decode s.cfg s.dec.mode s.dec.frameOpen (.rx s.cfg.frameBegin) = .ok .dEscBegin ∧
    exec .dEscBegin s =
      .next { s with dec := { mode := .inFrame, frameOpen := true, payload := [] }, event := .none, ovf := false }) ∧
  ∀ (i : Instr) (s t : State), exec i s = .next t → s.dec.frameOpen = false → t.dec.frameOpen = true → i = .dEscBegin

/-- R105. -/
def Obligations.NestedBeginForceClosesTheFrame : Prop :=
  ∀ s : State, DecoderReady s .escaped true →
    decode s.cfg s.dec.mode s.dec.frameOpen (.rx s.cfg.frameBegin) = .ok .dEscBeginNested ∧
    exec .dEscBeginNested s =
      .next { s with dec := { mode := .idle, frameOpen := false, payload := [] },
                     event := .protocolError .unexpectedBegin, ovf := false }

/-- R106, R54; it is the only row that outputs FrameReady. -/
def Obligations.EndDeliversThePayloadAndCloses : Prop :=
  (∀ s : State, DecoderReady s .escaped true →
    decode s.cfg s.dec.mode s.dec.frameOpen (.rx s.cfg.frameEnd) = .ok .dEscEnd ∧
    exec .dEscEnd s =
      .next { s with dec := { mode := .idle, frameOpen := false, payload := [] },
                     event := .frameReady s.dec.payload, ovf := false }) ∧
  ∀ (i : Instr) (s t : State) (p : Bytes), exec i s = .next t → t.event = .frameReady p → i = .dEscEnd

/-- R107. -/
def Obligations.StrayEndRaisesUnexpectedEnd : Prop :=
  ∀ s : State, DecoderReady s .escaped false →
    decode s.cfg s.dec.mode s.dec.frameOpen (.rx s.cfg.frameEnd) = .ok .dEscEndStray ∧
    exec .dEscEndStray s =
      .next { s with dec := { mode := .idle, frameOpen := false, payload := [] },
                     event := .protocolError .unexpectedEnd, ovf := false }

/-- R108, R52. -/
def Obligations.LiteralEscapeAppendsTheEscapeValue : Prop :=
  ∀ s : State, DecoderReady s .escaped true →
    decode s.cfg s.dec.mode s.dec.frameOpen (.rx s.cfg.literalEscape) = .ok .dEscLitesc ∧
    exec .dEscLitesc s =
      .next { s with
        dec := { mode := .inFrame, frameOpen := true,
                 payload := if s.dec.payload.length < s.cfg.cap then s.dec.payload ++ [s.cfg.escape]
                            else s.dec.payload },
        event := .none, ovf := decide (s.dec.payload.length = s.cfg.cap) }

/-- R109, R52. -/
def Obligations.LiteralZeroAppendsZero : Prop :=
  ∀ s : State, DecoderReady s .escaped true →
    decode s.cfg s.dec.mode s.dec.frameOpen (.rx s.cfg.literalZero) = .ok .dEscLitzero ∧
    exec .dEscLitzero s =
      .next { s with
        dec := { mode := .inFrame, frameOpen := true,
                 payload := if s.dec.payload.length < s.cfg.cap then s.dec.payload ++ [0x00#8]
                            else s.dec.payload },
        event := .none, ovf := decide (s.dec.payload.length = s.cfg.cap) }

/-- R110, R111: the same reason for either literal. -/
def Obligations.StrayLiteralsRaiseLiteralOutsideFrame : Prop :=
  ∀ s : State, DecoderReady s .escaped false →
    decode s.cfg s.dec.mode s.dec.frameOpen (.rx s.cfg.literalEscape) = .ok .dEscLitescStray ∧
    decode s.cfg s.dec.mode s.dec.frameOpen (.rx s.cfg.literalZero) = .ok .dEscLitzeroStray ∧
    exec .dEscLitescStray s =
      .next { s with dec := { mode := .idle, frameOpen := false, payload := [] },
                     event := .protocolError .literalOutsideFrame, ovf := false } ∧
    exec .dEscLitzeroStray s =
      .next { s with dec := { mode := .idle, frameOpen := false, payload := [] },
                     event := .protocolError .literalOutsideFrame, ovf := false }

/-- R112: with a frame open or not; the byte may be `ESCAPE` or 0x00, and after `ESCAPE` a `FRAME_BEGIN` opens
nothing. -/
def Obligations.UnknownMarkerForceCloses : Prop :=
  (∀ (s : State) (fo : Bool) (b : Byte), DecoderReady s .escaped fo →
    b ≠ s.cfg.frameBegin → b ≠ s.cfg.frameEnd → b ≠ s.cfg.literalEscape → b ≠ s.cfg.literalZero →
    decode s.cfg s.dec.mode s.dec.frameOpen (.rx b) = .ok (.dEscUnknown b) ∧
    exec (.dEscUnknown b) s =
      .next { s with dec := { mode := .idle, frameOpen := false, payload := [] },
                     event := .protocolError .unknownControlSequence, ovf := false }) ∧
  ∀ (s : State) (fo : Bool), DecoderReady s .escaped fo → ∃ t : State,
    run s [s.cfg.escape, s.cfg.frameBegin] =
      .next { state := t, events := [.protocolError .unknownControlSequence], ovfSteps := 0 } ∧
    t.dec = Decoder.reset

/-- R113; only D.ESC.LITESC appends the value of `ESCAPE`. -/
def Obligations.FrameEscapeKeepsTheFrameOpen : Prop :=
  (∀ s : State, DecoderReady s .inFrame true →
    decode s.cfg s.dec.mode s.dec.frameOpen (.rx s.cfg.escape) = .ok .dFrameEsc ∧
    exec .dFrameEsc s =
      .next { s with dec := { mode := .escaped, frameOpen := true, payload := s.dec.payload },
                     event := .none, ovf := false }) ∧
  ∀ (i : Instr) (s t : State), exec i s = .next t → t.dec.payload = s.dec.payload ++ [s.cfg.escape] →
    i = .dEscLitesc

/-- R114, R52. -/
def Obligations.FrameDataAppendsTheByte : Prop :=
  ∀ (s : State) (b : Byte), DecoderReady s .inFrame true → b ≠ s.cfg.escape →
    decode s.cfg s.dec.mode s.dec.frameOpen (.rx b) = .ok (.dFrameData b) ∧
    exec (.dFrameData b) s =
      .next { s with
        dec := { mode := .inFrame, frameOpen := true,
                 payload := if s.dec.payload.length < s.cfg.cap then s.dec.payload ++ [b]
                            else s.dec.payload },
        event := .none, ovf := decide (s.dec.payload.length = s.cfg.cap) }

/-! ## The encoder's rows -/

/-- R144, R145: the edges of the payload, each emitted once around it, for the empty payload too. -/
def Obligations.PreambleAndPostambleEmitTheDelimiters : Prop :=
  (∀ (s : State) (m : Mode) (fo : Bool), s.cfg.wf = true →
    decode s.cfg m fo (.enc .payloadStart) = .ok .ePreamble ∧
    decode s.cfg m fo (.enc .payloadEnd) = .ok .ePostamble ∧
    exec .ePreamble s =
      .next { s with encOut := s.encOut ++ [s.cfg.escape, s.cfg.frameBegin], event := .none, ovf := false } ∧
    exec .ePostamble s =
      .next { s with encOut := s.encOut ++ [s.cfg.escape, s.cfg.frameEnd], event := .none, ovf := false }) ∧
  ∀ (c : Config) (p : Bytes),
    encodeMessage c p = [c.escape, c.frameBegin] ++ p.flatMap (stuff c) ++ [c.escape, c.frameEnd] ∧
    encodeMessage c [] = [c.escape, c.frameBegin, c.escape, c.frameEnd]

/-- R141, R142, R149: the two stuffed values; the value tested is the decoder's `ESCAPE`. -/
def Obligations.ZeroAndEscapeAreStuffed : Prop :=
  ∀ (s : State) (m : Mode) (fo : Bool), s.cfg.wf = true →
    decode s.cfg m fo (.enc (.payloadByte 0x00#8)) = .ok .eZero ∧
    decode s.cfg m fo (.enc (.payloadByte s.cfg.escape)) = .ok .eEscape ∧
    exec .eZero s =
      .next { s with encOut := s.encOut ++ [s.cfg.escape, s.cfg.literalZero], event := .none, ovf := false } ∧
    exec .eEscape s =
      .next { s with encOut := s.encOut ++ [s.cfg.escape, s.cfg.literalEscape], event := .none, ovf := false }

/-- R143: every other value, the marker values among them. -/
def Obligations.OtherPayloadBytesAreEmittedVerbatim : Prop :=
  ∀ (s : State) (m : Mode) (fo : Bool) (v : Byte), s.cfg.wf = true → v ≠ 0x00#8 → v ≠ s.cfg.escape →
    decode s.cfg m fo (.enc (.payloadByte v)) = .ok (.eVerbatim v) ∧
    exec (.eVerbatim v) s = .next { s with encOut := s.encOut ++ [v], event := .none, ovf := false }

/-! ## The step -/

/-- R100, R140, R59, with the queue of log entry 3 and the walk of log entry 4: a step takes the next element of an
encode call, else the next fed byte, and is `exec` of the row it selects; with neither there is no byte this tick
(R101). -/
def Obligations.StepRunsTheDecodedRow : Prop :=
  (∀ (s : State) (t : EncTok) (rest : List EncTok) (i : Instr), s.encWalk = t :: rest →
    decode s.cfg s.dec.mode s.dec.frameOpen (.enc t) = .ok i →
    step s = exec i { s with encWalk := rest }) ∧
  (∀ (s : State) (b : Byte) (rest : List Input) (i : Instr), s.encWalk = [] → s.inputs = .byte b :: rest →
    decode s.cfg s.dec.mode s.dec.frameOpen (.rx b) = .ok i →
    step s = exec i { s with inputs := rest }) ∧
  (∀ (s : State) (o : Op) (rest : List Input), s.encWalk = [] → s.inputs = .op o :: rest →
    step s = runOp o { s with inputs := rest }) ∧
  (∀ s : State, s.encWalk = [] → s.inputs = [] → step s = runOp .noByte s)

/-- R101 (the spec's decision D14): any number of ticks without a byte leave the decoder, and all else, as it was. -/
def Obligations.TicksWithoutAByteChangeNothing : Prop :=
  ∀ (n : Nat) (s : State) (rest : List Input), s.cfg.wf = true → s.encWalk = [] →
    s.inputs = List.replicate (n + 1) (.op .noByte) ++ rest →
    runSteps (n + 1) s = .next { s with inputs := rest, event := .none, ovf := false }

/-- R36, R37: what reset leaves, under every configuration. The mode is the source's; the flag is the spec's inference
("[derived: from 42_laws.md rule R171 and 40_decoder.md rule R105]"), the rest its decisions D8 and D15. -/
def Obligations.ResetLeavesBothUnitsAtRest : Prop :=
  ∀ c : Config,
    (State.resetWith c).dec = { mode := .idle, frameOpen := false, payload := [] } ∧
    (State.resetWith c).ser = { phase := .idle, buf := [], idx := 0 } ∧
    (State.resetWith c).event = .none ∧ (State.resetWith c).ovf = false

/-- Reset between any two steps has the effect of creation on the unit, without any event (70_reset_and_hazards.md
section 1, the spec's decisions D15 and D23). That the block, the decoder and the serializer are three separate
requests, and that each keeps the waiting requests, the walk and the bytes already sent, is the model's choice (log
entry 11, DESIGN CHOICE; for the two streams log entry 5, for the walk log entry 4). -/
def Obligations.ResetOperationsRestoreTheResetState : Prop :=
  ∀ s : State, s.cfg.wf = true →
    runOp .reset s = .next { s with dec := (State.resetWith s.cfg).dec, ser := (State.resetWith s.cfg).ser,
                                    event := .none, ovf := false } ∧
    runOp .resetDecoder s = .next { s with dec := (State.resetWith s.cfg).dec, event := .none, ovf := false } ∧
    runOp .resetSerializer s = .next { s with ser := (State.resetWith s.cfg).ser, event := .none, ovf := false }

/-! ## The serializer -/

/-- R150 (the spec's decisions D15 to D17): `start` loads a payload from E_IDLE when it fits, emits no byte, and is
refused otherwise. -/
def Obligations.StartLoadsThePayloadOrIsRefused : Prop :=
  ∀ (s : State) (p : Bytes), s.cfg.wf = true →
    (s.ser.phase = .idle → p.length ≤ s.cfg.encCap →
      runOp (.start p) s =
        .next { s with ser := { phase := .preEsc, buf := p, idx := 0 }, event := .none, ovf := false }) ∧
    (s.ser.phase ≠ .idle → runOp (.start p) s = .refused .startWhileBusy) ∧
    (s.ser.phase = .idle → s.cfg.encCap < p.length → runOp (.start p) s = .refused .startTooLong)

/-- R151, R152, R153, R156, R157: `tick` in the phases that read no payload byte (the spec's decision D15). -/
def Obligations.TickAroundTheBody : Prop :=
  ∀ s : State, s.cfg.wf = true →
    (s.ser.phase = .idle → runOp .tick s = .next { s with event := .none, ovf := false }) ∧
    (s.ser.phase = .preEsc → s.ser.inv s.cfg = true →
      runOp .tick s = .next { s with ser := { s.ser with phase := .preMark },
                                     serOut := s.serOut ++ [s.cfg.escape], event := .none, ovf := false }) ∧
    (s.ser.phase = .preMark → s.ser.inv s.cfg = true →
      runOp .tick s = .next { s with ser := { s.ser with phase := if 0 < s.ser.buf.length then .body else .postEsc },
                                     serOut := s.serOut ++ [s.cfg.frameBegin], event := .none, ovf := false }) ∧
    (s.ser.phase = .postEsc → s.ser.inv s.cfg = true →
      runOp .tick s = .next { s with ser := { s.ser with phase := .postMark },
                                     serOut := s.serOut ++ [s.cfg.escape], event := .none, ovf := false }) ∧
    (s.ser.phase = .postMark → s.ser.inv s.cfg = true →
      runOp .tick s = .next { s with ser := { s.ser with phase := .idle },
                                     serOut := s.serOut ++ [s.cfg.frameEnd], event := .none, ovf := false })

/-- R154, R155: `tick` in the body, with `v = e_buf[e_idx]` (the spec's decision D15). -/
def Obligations.TickInTheBody : Prop :=
  ∀ (s : State) (v : Byte), s.cfg.wf = true → s.ser.inv s.cfg = true → s.ser.buf[s.ser.idx]? = some v →
    (s.ser.phase = .body → v = 0x00#8 ∨ v = s.cfg.escape →
      runOp .tick s = .next { s with ser := { s.ser with phase := .bodyMark },
                                     serOut := s.serOut ++ [s.cfg.escape], event := .none, ovf := false }) ∧
    (s.ser.phase = .body → v ≠ 0x00#8 → v ≠ s.cfg.escape →
      runOp .tick s = .next { s with
        ser := { phase := if s.ser.idx + 1 < s.ser.buf.length then .body else .postEsc,
                 buf := s.ser.buf, idx := s.ser.idx + 1 },
        serOut := s.serOut ++ [v], event := .none, ovf := false }) ∧
    (s.ser.phase = .bodyMark →
      runOp .tick s = .next { s with
        ser := { phase := if s.ser.idx + 1 < s.ser.buf.length then .body else .postEsc,
                 buf := s.ser.buf, idx := s.ser.idx + 1 },
        serOut := s.serOut ++ [if v = 0x00#8 then s.cfg.literalZero else s.cfg.literalEscape],
        event := .none, ovf := false })

/-- R158, the spec's inference ("[derived: from rule R140 and rule R150 to rule R157"): after `start(p)`, every one of
`len(encode(p))` ticks emits one byte, together they emit `encode(p)`, and the serializer is back in E_IDLE after the
last and not before. -/
def Obligations.SerializerEmitsTheEncodedMessage : Prop :=
  ∀ (s : State) (p : Bytes) (rest : List Input) (k : Nat), s.cfg.wf = true → s.encWalk = [] →
    s.ser.phase = .idle → p.length ≤ s.cfg.encCap →
    s.inputs = .op (.start p) :: (List.replicate (encodeMessage s.cfg p).length (.op .tick) ++ rest) →
    k ≤ (encodeMessage s.cfg p).length →
    ∃ t : State, runSteps (k + 1) s = .next t ∧
      t.serOut = s.serOut ++ (encodeMessage s.cfg p).take k ∧
      (t.ser.phase = .idle ↔ k = (encodeMessage s.cfg p).length) ∧
      t.ser.buf = p ∧ t.dec = s.dec ∧ t.encOut = s.encOut

/-! ## The encoder function -/

/-- R140, with the walk that log entry 4 chooses: an encode call, walked row by row, hands over the whole of
`encode(p)` and changes nothing else. -/
def Obligations.EncodeCallEmitsTheEncodedMessage : Prop :=
  ∀ (s : State) (p : Bytes) (rest : List Input), s.cfg.wf = true → s.encWalk = [] →
    s.inputs = .op (.encode p) :: rest →
    runSteps (p.length + 3) s =
      .next { s with inputs := rest, encOut := s.encOut ++ encodeMessage s.cfg p, event := .none, ovf := false }

/-- R148, the spec's inference ("[derived: from rule R140]"). -/
def Obligations.EncodedLengthCountsTheStuffedBytes : Prop :=
  ∀ (c : Config) (p : Bytes), c.wf = true →
    (encodeMessage c p).length = 4 + p.length + p.count 0x00#8 + p.count c.escape ∧
    4 ≤ (encodeMessage c p).length ∧ (encodeMessage c p).length ≤ 4 + 2 * p.length ∧
    (encodeMessage c []).length = 4 ∧
    (p.length = 64 → 68 ≤ (encodeMessage c p).length ∧ (encodeMessage c p).length ≤ 132)

/-- R176, the spec's inference ("[derived: from 41_encoder.md rule R141 to rule R145"): no byte of an encoded message
is 0x00. -/
def Obligations.EncodedMessageHasNoZeroByte : Prop :=
  ∀ (c : Config) (p : Bytes), c.wf = true → ∀ b ∈ encodeMessage c p, b ≠ 0x00#8

/-! ## The laws of the pair -/

/-- R170: round trip; no event before the last byte, no `ovf`, the reset state again; and `encode` is injective. -/
def Obligations.DecodeInvertsEncode : Prop :=
  (∀ (s : State) (p : Bytes), s.cfg.wf = true → s.dec = Decoder.reset → p.length ≤ s.cfg.cap →
    (∃ t : State, run s (encodeMessage s.cfg p) = .next { state := t, events := [.frameReady p], ovfSteps := 0 } ∧
      withoutOutputs t = withoutOutputs s) ∧
    ∀ n < (encodeMessage s.cfg p).length, ∃ t : State,
      run s ((encodeMessage s.cfg p).take n) = .next { state := t, events := [], ovfSteps := 0 }) ∧
  ∀ (c : Config) (p q : Bytes), c.wf = true → encodeMessage c p = encodeMessage c q → p = q

/-- R171: garbage without `ESCAPE` before a frame is discarded. -/
def Obligations.DecoderResynchronisesAfterGarbage : Prop :=
  ∀ (s : State) (g p : Bytes), s.cfg.wf = true → s.dec = Decoder.reset → (∀ b ∈ g, b ≠ s.cfg.escape) →
    p.length ≤ s.cfg.cap →
    ∃ t : State, run s (g ++ encodeMessage s.cfg p) =
        .next { state := t, events := [.frameReady p], ovfSteps := 0 } ∧
      withoutOutputs t = withoutOutputs s

/-- R172: a nested begin is rejected, and the next valid frame is decoded. -/
def Obligations.NestedBeginIsRejectedAndTheNextFrameDecoded : Prop :=
  ∀ (s : State) (x : Byte), s.cfg.wf = true → s.dec = Decoder.reset →
    (∃ t : State,
      run s (wireBegin s.cfg ++ wireBegin s.cfg ++ [x] ++ wireEnd s.cfg) = .next
        { state := t,
          events := [.protocolError .unexpectedBegin,
                     .protocolError (if x = s.cfg.escape then .unknownControlSequence else .unexpectedEnd)],
          ovfSteps := 0 } ∧
      withoutOutputs t = withoutOutputs s) ∧
    ∀ p : Bytes, p.length ≤ s.cfg.cap → ∃ t : State,
      run s (wireBegin s.cfg ++ wireBegin s.cfg ++ [x] ++ wireEnd s.cfg ++ encodeMessage s.cfg p) = .next
        { state := t,
          events := [.protocolError .unexpectedBegin,
                     .protocolError (if x = s.cfg.escape then .unknownControlSequence else .unexpectedEnd),
                     .frameReady p],
          ovfSteps := 0 }

/-- R175: filler in the reset state has no effect. -/
def Obligations.IdleIgnoresBytesOtherThanEscape : Prop :=
  ∀ (s : State) (g : Bytes), s.cfg.wf = true → s.dec = Decoder.reset → (∀ b ∈ g, b ≠ s.cfg.escape) →
    ∃ t : State, run s g = .next { state := t, events := [], ovfSteps := 0 } ∧
      withoutOutputs t = withoutOutputs s

/-- R76, and the spec's inferences in R62(c), R71 and R81: a frame of any items, canonical or not, delivers the items'
values in order, the first `CAP` of them, and each dropped one is an `ovf` step. -/
def Obligations.FrameDeliversTheValuesOfItsItems : Prop :=
  ∀ (s : State) (q : List Item), s.cfg.wf = true → s.dec = Decoder.reset → (∀ x ∈ q, itemWf s.cfg x = true) →
    ∃ t : State, run s (wireBegin s.cfg ++ itemsWire s.cfg q ++ wireEnd s.cfg) = .next
        { state := t, events := [.frameReady ((q.map (itemValue s.cfg)).take s.cfg.cap)],
          ovfSteps := q.length - s.cfg.cap } ∧
      withoutOutputs t = withoutOutputs s

/-- R177, R178, the spec's inferences ("[derived: from 20_memory.md rule R52 and rule R177]"): a payload of any length
decodes without error, truncated to `CAP` bytes. -/
def Obligations.LongPayloadsAreTruncatedWithoutError : Prop :=
  ∀ (s : State) (p : Bytes), s.cfg.wf = true → s.dec = Decoder.reset →
    ∃ t : State, run s (encodeMessage s.cfg p) = .next
        { state := t, events := [.frameReady (p.take s.cfg.cap)], ovfSteps := p.length - s.cfg.cap } ∧
      withoutOutputs t = withoutOutputs s

/-- R179, the spec's inference: a stray `ESCAPE` before a frame costs that frame. -/
def Obligations.StrayEscapeCostsTheNextFrame : Prop :=
  ∀ (s : State) (p : Bytes), s.cfg.wf = true → s.dec = Decoder.reset →
    ∃ t : State, run s ([s.cfg.escape] ++ encodeMessage s.cfg p) = .next
        { state := t,
          events := [.protocolError .unknownControlSequence] ++
            List.replicate (p.count 0x00#8 + p.count s.cfg.escape) (.protocolError .literalOutsideFrame) ++
            [.protocolError .unexpectedEnd],
          ovfSteps := 0 } ∧
      withoutOutputs t = withoutOutputs s

/-- R180, the spec's inference: an unterminated frame costs the next frame too. -/
def Obligations.UnterminatedFrameCostsTheNextFrame : Prop :=
  ∀ (s : State) (q : List Item) (p : Bytes), s.cfg.wf = true → s.dec = Decoder.reset →
    (∀ x ∈ q, itemWf s.cfg x = true) →
    ∃ t : State, run s (wireBegin s.cfg ++ itemsWire s.cfg q ++ encodeMessage s.cfg p) = .next
        { state := t,
          events := [.protocolError .unexpectedBegin] ++
            List.replicate (p.count 0x00#8 + p.count s.cfg.escape) (.protocolError .literalOutsideFrame) ++
            [.protocolError .unexpectedEnd],
          ovfSteps := q.length - s.cfg.cap } ∧
      withoutOutputs t = withoutOutputs s

/-- R181, the spec's inference: after every step with an event the decoder is in its reset state, and what it does
from there does not depend on what came before. -/
def Obligations.EveryEventReArmsTheDecoder : Prop :=
  ∀ s t : State, step s = .next t → t.event ≠ .none →
    t.dec = Decoder.reset ∧ ∀ w : Bytes, observed (run t w) = observed (run (State.resetWith t.cfg) w)

/-- R182, the spec's inference: frames with filler around them are decoded one after another. -/
def Obligations.ConcatenatedFramesAreAllDecoded : Prop :=
  ∀ (s : State) (g : Bytes) (l : List (Bytes × Bytes)), s.cfg.wf = true → s.dec = Decoder.reset →
    (∀ b ∈ g, b ≠ s.cfg.escape) → (∀ x ∈ l, ∀ b ∈ x.2, b ≠ s.cfg.escape) →
    ∃ t : State, run s (g ++ l.flatMap (fun x => encodeMessage s.cfg x.1 ++ x.2)) = .next
        { state := t, events := l.map (fun x => .frameReady (x.1.take s.cfg.cap)),
          ovfSteps := (l.map (fun x => x.1.length - s.cfg.cap)).sum } ∧
      withoutOutputs t = withoutOutputs s

/-- R183, the spec's inference ("[derived: from 10_state.md rule R24 (I5) and 40_decoder.md rule R106]"). -/
def Obligations.DeliveredPayloadsFitTheBuffer : Prop :=
  ∀ (s t : State) (p : Bytes), step s = .next t → t.event = .frameReady p → p.length ≤ s.cfg.cap

/-- R184, the spec's inference: ticks without a byte between the bytes change neither the events nor the final decoder
state; and a run of machine steps is the run of 42_laws.md. -/
def Obligations.PacingDoesNotMatter : Prop :=
  ∀ (s : State) (l : List (Option Byte)) (rest : List Input), s.cfg.wf = true → s.encWalk = [] →
    s.inputs = l.map pollInput ++ rest →
    observed (observe l.length s) = observed (run s (l.filterMap id))

/-! ## Whole-machine rules -/

/-- R100, R203, and the spec's inference in R117: every reachable state has a transition for every byte, and at most
two bytes lead back to the reset state. -/
def Obligations.EveryByteIsAcceptedAndTwoBytesRearm : Prop :=
  ∀ s : State, s.cfg.wf = true → s.dec.inv s.cfg = true →
    (∀ b : Byte, ∃ t : State, feed s b = .next t ∧ t.dec.inv t.cfg = true) ∧
    ∀ b : Byte, cls2 s.cfg b = .other → ∃ r : RunResult,
      run s (if s.dec.mode = .escaped then [b] else [s.cfg.escape, b]) = .next r ∧
      r.state.dec = Decoder.reset

/-- R191 to R194, R106: which state and byte give which event, and what an error leaves; overflow is the reason of
none. -/
def Obligations.EventsHaveTheCausesTheSpecNames : Prop :=
  ∀ (s t : State) (b : Byte), feed s b = .next t →
    (t.event = .protocolError .unexpectedBegin ↔
      s.dec.mode = .escaped ∧ s.dec.frameOpen = true ∧ b = s.cfg.frameBegin) ∧
    (t.event = .protocolError .unexpectedEnd ↔
      s.dec.mode = .escaped ∧ s.dec.frameOpen = false ∧ b = s.cfg.frameEnd) ∧
    (t.event = .protocolError .unknownControlSequence ↔
      s.dec.mode = .escaped ∧ b ≠ s.cfg.frameBegin ∧ b ≠ s.cfg.frameEnd ∧ b ≠ s.cfg.literalZero ∧
      b ≠ s.cfg.literalEscape) ∧
    (t.event = .protocolError .literalOutsideFrame ↔
      s.dec.mode = .escaped ∧ s.dec.frameOpen = false ∧ (b = s.cfg.literalZero ∨ b = s.cfg.literalEscape)) ∧
    t.event ≠ .protocolError .payloadOverflow ∧
    ((∃ p, t.event = .frameReady p) ↔
      s.dec.mode = .escaped ∧ s.dec.frameOpen = true ∧ b = s.cfg.frameEnd) ∧
    ∀ r, t.event = .protocolError r →
      t = { s with dec := { mode := .idle, frameOpen := false, payload := [] }, event := .protocolError r, ovf := false }

/-- R52, R195 (the spec's decision D11): the strobe is 1 exactly when a row appends to a full buffer; then no event is
output, the frame stays open, the payload is unchanged and parsing continues in mode InFrame. -/
def Obligations.OverflowDropsTheByteAndContinues : Prop :=
  ∀ (i : Instr) (s t : State), exec i s = .next t →
    (t.ovf = true ↔
      (i = .dEscLitesc ∨ i = .dEscLitzero ∨ ∃ b, i = .dFrameData b) ∧ s.dec.payload.length = s.cfg.cap) ∧
    (t.ovf = true →
      t = { s with dec := { mode := .inFrame, frameOpen := true, payload := s.dec.payload },
                   event := .none, ovf := true })

/-- R201: every protocol error makes the same state change and no other; the clearing is the spec's decision D9. -/
def Obligations.EveryProtocolErrorRecoversTheSameWay : Prop :=
  ∀ (i : Instr) (s t : State) (r : Reason), exec i s = .next t → t.event = .protocolError r →
    t = { s with dec := { mode := .idle, frameOpen := false, payload := [] },
                 event := .protocolError r, ovf := false }

/-- R22: which rows set and which clear `frame_open`. -/
def Obligations.FrameOpenChangesOnlyWhereTheSpecSays : Prop :=
  ∀ (i : Instr) (s t : State), exec i s = .next t →
    ((s.dec.frameOpen = false ∧ t.dec.frameOpen = true) ↔ i = .dEscBegin) ∧
    ((s.dec.frameOpen = true ∧ t.dec.frameOpen = false) ↔
      i = .dEscBeginNested ∨ i = .dEscEnd ∨ (∃ b, i = .dEscUnknown b) ∧ s.dec.frameOpen = true)

/-- R24, R28, R181, R183, the spec's inferences, with the walk of log entry 4: every step keeps the invariant. -/
def Obligations.EveryStepKeepsTheInvariant : Prop :=
  ∀ s t : State, s.Inv → step s = .next t → t.Inv

/-- R24, R28, R36, R37: the reset state of every well-formed configuration has the invariant. -/
def Obligations.ResetStatesMeetTheInvariant : Prop :=
  (∀ c : Config, c.wf = true → (State.resetWith c).Inv) ∧ State.reset.Inv

/-- R116, R63: a decoder step reads the configuration and the decoder only, and writes the decoder and its outputs
only. -/
def Obligations.DecoderStepIsAFunctionOfTheDecoder : Prop :=
  ∀ (s₁ s₂ t₁ : State) (b : Byte), s₁.cfg = s₂.cfg → s₁.dec = s₂.dec → feed s₁ b = .next t₁ →
    feed s₂ b = .next { s₂ with dec := t₁.dec, event := t₁.event, ovf := t₁.ovf }

/-- R63, the spec's inference ("[derived: from 10_state.md rule R20 and rule R28]"): no encoder row, encoder call or
serializer operation changes the decoder, and a decoder step changes neither form of the encoder. R63 says no more:
that an encode call keeps the function's stream and only begins a walk is log entry 4's choice, that each form of the
encoder writes a stream of its own and keeps the other's is log entry 5's, and that the walk is kept by the other form
is both entries' (DESIGN CHOICE); the requests are log entry 3's. -/
def Obligations.UnitsAreIndependent : Prop :=
  (∀ (s t : State) (b : Byte), feed s b = .next t →
    t.ser = s.ser ∧ t.encWalk = s.encWalk ∧ t.encOut = s.encOut ∧ t.serOut = s.serOut ∧ t.inputs = s.inputs) ∧
  (∀ (s t : State) (x : EncTok), runRow (.enc x) s = .next t →
    t.dec = s.dec ∧ t.ser = s.ser ∧ t.serOut = s.serOut ∧ t.encWalk = s.encWalk ∧ t.inputs = s.inputs) ∧
  (∀ (s t : State) (p : Bytes), runOp (.encode p) s = .next t →
    t.dec = s.dec ∧ t.ser = s.ser ∧ t.serOut = s.serOut ∧ t.encOut = s.encOut ∧ t.inputs = s.inputs) ∧
  (∀ (s t : State) (o : Op), (o = .tick ∨ ∃ p, o = .start p) → runOp o s = .next t →
    t.dec = s.dec ∧ t.encWalk = s.encWalk ∧ t.encOut = s.encOut ∧ t.inputs = s.inputs)

/-- R66 (the spec's decision D27): the payload's contents never influence a transition, only its length does. -/
def Obligations.PayloadContentsNeverInfluenceTransitions : Prop :=
  ∀ (s₁ s₂ t₁ : State) (b : Byte), s₁.cfg = s₂.cfg → s₁.dec.mode = s₂.dec.mode →
    s₁.dec.frameOpen = s₂.dec.frameOpen → s₁.dec.payload.length = s₂.dec.payload.length →
    feed s₁ b = .next t₁ →
    ∃ t₂ : State, feed s₂ b = .next t₂ ∧ t₂.dec.mode = t₁.dec.mode ∧ t₂.dec.frameOpen = t₁.dec.frameOpen ∧
      t₂.dec.payload.length = t₁.dec.payload.length ∧ t₂.ovf = t₁.ovf ∧
      (t₂.event = t₁.event ∨
        t₁.event = .frameReady s₁.dec.payload ∧ t₂.event = .frameReady s₂.dec.payload)

/-- R30: the outputs of a step are not state; no step reads the fields log entry 8 keeps them in. -/
def Obligations.NoStepReadsTheOutputsOfTheLast : Prop :=
  ∀ (s : State) (e : Event) (o : Bool), step { s with event := e, ovf := o } = step s

/-- R31, R233: no step writes the configuration, which log entry 1 puts into State. -/
def Obligations.NoStepChangesTheConfiguration : Prop :=
  ∀ s t : State, step s = .next t → t.cfg = s.cfg

/-- R50(b), R58, R176: the outbound streams are append-only, a serializer step adds at most one byte and an emission
row at most two, and no byte added is 0x00. -/
def Obligations.OutboundStreamsOnlyGrowAndCarryNoZero : Prop :=
  ∀ s t : State, step s = .next t → ∃ bs cs : Bytes,
    t.encOut = s.encOut ++ bs ∧ t.serOut = s.serOut ++ cs ∧ bs.length ≤ 2 ∧ cs.length ≤ 1 ∧
    ∀ b ∈ bs ++ cs, b ≠ 0x00#8

/-- R8 (the spec's inference) and R25 (its decision D7): an ill-formed configuration and an unreachable decoder state
are refused, whatever the byte. -/
def Obligations.StatesWithoutMeaningAreRefused : Prop :=
  (∀ s : State, s.cfg.wf = false → step s = .refused .illFormedConfig) ∧
  ∀ (s : State) (b : Byte), s.cfg.wf = true → s.dec.inv s.cfg = false →
    feed s b = .refused .unreachableDecoderState

/-! ## Frames -/

/-- R102, R103, R113, R141 to R145: the rows that store nothing keep every payload byte, the frame-open flag and every
field but the mode, the event, `ovf` and the encoder's output. -/
def Obligations.RowsThatStoreNothingKeepThePayload : Prop :=
  ∀ (i : Instr) (s t : State),
    (i = .dIdleEsc ∨ i = .dFrameEsc ∨ i = .ePreamble ∨ i = .eZero ∨ i = .eEscape ∨ i = .ePostamble ∨
      ∃ b, i = .dIdleSkip b ∨ i = .eVerbatim b) →
    exec i s = .next t →
    (∀ a, memRead t.dec a = memRead s.dec a) ∧ t.dec.frameOpen = s.dec.frameOpen ∧
    (i ≠ .dIdleEsc → i ≠ .dFrameEsc → t.dec = s.dec) ∧
    (i.isDecoderRow = true → t.encOut = s.encOut) ∧
    t = { s with dec := t.dec, encOut := t.encOut, event := .none, ovf := false }

/-- R108, R109, R114, R51, R52: the appending rows store one byte at the address the append computes, and keep every
other byte and every field but the mode, the event and `ovf`. -/
def Obligations.AppendingRowsStoreOneByte : Prop :=
  ∀ (i : Instr) (v : Byte) (s t : State),
    (i = .dEscLitesc ∧ v = s.cfg.escape ∨ i = .dEscLitzero ∧ v = 0x00#8 ∨ i = .dFrameData v) →
    exec i s = .next t →
    (∀ a, appendAddr s.cfg s.dec = some a → memRead t.dec a = some v) ∧
    (∀ a, appendAddr s.cfg s.dec ≠ some a → memRead t.dec a = memRead s.dec a) ∧
    t.dec.frameOpen = s.dec.frameOpen ∧ t.dec.mode = .inFrame ∧
    t = { s with dec := t.dec, event := .none, ovf := t.ovf }

/-- R104 to R107, R110 to R112, R53: the rows that open or close a frame clear the payload and keep every field that
is not the decoder's. -/
def Obligations.OpeningAndClosingRowsClearThePayload : Prop :=
  ∀ (i : Instr) (s t : State),
    (i = .dEscBegin ∨ i = .dEscBeginNested ∨ i = .dEscEnd ∨ i = .dEscEndStray ∨ i = .dEscLitescStray ∨
      i = .dEscLitzeroStray ∨ ∃ b, i = .dEscUnknown b) →
    exec i s = .next t →
    (∀ a, memRead t.dec a = none) ∧
    (i = .dEscBegin → t.dec.mode = .inFrame ∧ t.dec.frameOpen = true) ∧
    (i ≠ .dEscBegin → t.dec.mode = .idle ∧ t.dec.frameOpen = false) ∧
    t = { s with dec := t.dec, event := t.event, ovf := false }
end

