-- ==== Sys2Proof/Laws/Decode.lean ====
section
/-! SUPPORT. What a well-formed alphabet gives (00_scope.md R8), and the classes and rows of the bytes it names
(30_encoding.md R75, R85). -/

namespace Sys2Proof

/-- R8, the ten inequalities of the alphabet in the direction the tests of R75 need them. -/
theorem Config.distinct_of_wf {c : Config} (h : c.wf = true) :
    c.escape ≠ c.frameBegin ∧ c.escape ≠ c.frameEnd ∧ c.escape ≠ c.literalZero ∧ c.escape ≠ c.literalEscape ∧
    c.frameEnd ≠ c.frameBegin ∧ c.literalZero ≠ c.frameBegin ∧ c.literalEscape ≠ c.frameBegin ∧
    c.literalZero ≠ c.frameEnd ∧ c.literalEscape ≠ c.frameEnd ∧ c.literalZero ≠ c.literalEscape := by
  obtain ⟨h, -, -⟩ := of_decide_eq_true h
  simp only [Config.alphabet, List.nodup_cons, List.mem_cons, List.not_mem_nil, or_false, not_or] at h
  obtain ⟨⟨h1, h2, h3, h4⟩, ⟨h5, h6, h7⟩, ⟨h8, h9⟩, h10, -⟩ := h
  exact ⟨h1, h2, h3, h4, Ne.symm h5, Ne.symm h6, Ne.symm h7, Ne.symm h8, Ne.symm h9, h10⟩

/-- R8: no byte of the alphabet is 0x00. -/
theorem Config.nonzero_of_wf {c : Config} (h : c.wf = true) :
    c.escape ≠ 0x00#8 ∧ c.frameBegin ≠ 0x00#8 ∧ c.frameEnd ≠ 0x00#8 ∧ c.literalZero ≠ 0x00#8 ∧
    c.literalEscape ≠ 0x00#8 := by
  obtain ⟨-, h, -⟩ := of_decide_eq_true h
  simp only [Config.alphabet, List.mem_cons, List.not_mem_nil, or_false, not_or] at h
  obtain ⟨h1, h2, h3, h4, h5⟩ := h
  exact ⟨Ne.symm h1, Ne.symm h2, Ne.symm h3, Ne.symm h4, Ne.symm h5⟩

/-- R9. -/
theorem Config.cap_pos_of_wf {c : Config} (h : c.wf = true) : 1 ≤ c.cap := (of_decide_eq_true h).2.2

theorem Config.ref_wf : Config.ref.wf = true := by decide

theorem cls1_escape (c : Config) : cls1 c c.escape = .esc := by simp [cls1]

theorem cls1_raw {c : Config} {b : Byte} (h : b ≠ c.escape) : cls1 c b = .raw := by simp [cls1, h]

theorem cls2_frameBegin (c : Config) : cls2 c c.frameBegin = .frameBegin := by simp [cls2]

theorem cls2_frameEnd {c : Config} (h : c.wf = true) : cls2 c c.frameEnd = .frameEnd := by
  simp [cls2, Config.distinct_of_wf h]

theorem cls2_literalEscape {c : Config} (h : c.wf = true) : cls2 c c.literalEscape = .litEsc := by
  simp [cls2, Config.distinct_of_wf h]

theorem cls2_literalZero {c : Config} (h : c.wf = true) : cls2 c c.literalZero = .litZero := by
  simp [cls2, Config.distinct_of_wf h]

/-- R75: an `ESCAPE` directly after an `ESCAPE` is an unknown marker. -/
theorem cls2_escape {c : Config} (h : c.wf = true) : cls2 c c.escape = .other := by
  simp [cls2, Config.distinct_of_wf h]

/-- R75: a byte is an unknown marker exactly when it is none of the four. -/
theorem cls2_other_iff (c : Config) (b : Byte) :
    cls2 c b = .other ↔ b ≠ c.frameBegin ∧ b ≠ c.frameEnd ∧ b ≠ c.literalEscape ∧ b ≠ c.literalZero := by
  unfold cls2
  split_ifs <;> simp_all

theorem decode_of_wf_enc {c : Config} (h : c.wf = true) (m : Mode) (fo : Bool) (t : EncTok) :
    decode c m fo (.enc t) = .ok (decodeTok c t) := by simp [decode, h]

theorem decode_of_wf_idle {c : Config} (h : c.wf = true) (b : Byte) :
    decode c .idle false (.rx b) = .ok (decodeIdle c b) := by simp [decode, h]

theorem decode_of_wf_escaped {c : Config} (h : c.wf = true) (fo : Bool) (b : Byte) :
    decode c .escaped fo (.rx b) = .ok (decodeEscaped c fo b) := by simp [decode, h]

theorem decode_of_wf_inFrame {c : Config} (h : c.wf = true) (b : Byte) :
    decode c .inFrame true (.rx b) = .ok (decodeInFrame c b) := by simp [decode, h]

end Sys2Proof
end

