-- ==== Sys2Proof/Laws/State.lean ====
section
/-! SUPPORT. One lemma per field per shared state update, so that no later proof unfolds a record update. -/

namespace Sys2Proof.Machine

@[simp] theorem emit_cfg (e : Event) (o : Bool) (s : State) : (emit e o s).cfg = s.cfg := rfl
@[simp] theorem emit_dec (e : Event) (o : Bool) (s : State) : (emit e o s).dec = s.dec := rfl
@[simp] theorem emit_ser (e : Event) (o : Bool) (s : State) : (emit e o s).ser = s.ser := rfl
@[simp] theorem emit_encWalk (e : Event) (o : Bool) (s : State) : (emit e o s).encWalk = s.encWalk := rfl
@[simp] theorem emit_inputs (e : Event) (o : Bool) (s : State) : (emit e o s).inputs = s.inputs := rfl
@[simp] theorem emit_event (e : Event) (o : Bool) (s : State) : (emit e o s).event = e := rfl
@[simp] theorem emit_ovf (e : Event) (o : Bool) (s : State) : (emit e o s).ovf = o := rfl
@[simp] theorem emit_encOut (e : Event) (o : Bool) (s : State) : (emit e o s).encOut = s.encOut := rfl
@[simp] theorem emit_serOut (e : Event) (o : Bool) (s : State) : (emit e o s).serOut = s.serOut := rfl

@[simp] theorem setMode_cfg (m : Mode) (s : State) : (setMode m s).cfg = s.cfg := rfl
@[simp] theorem setMode_dec (m : Mode) (s : State) : (setMode m s).dec = { s.dec with mode := m } := rfl
@[simp] theorem setMode_ser (m : Mode) (s : State) : (setMode m s).ser = s.ser := rfl
@[simp] theorem setMode_encWalk (m : Mode) (s : State) : (setMode m s).encWalk = s.encWalk := rfl
@[simp] theorem setMode_inputs (m : Mode) (s : State) : (setMode m s).inputs = s.inputs := rfl
@[simp] theorem setMode_event (m : Mode) (s : State) : (setMode m s).event = s.event := rfl
@[simp] theorem setMode_ovf (m : Mode) (s : State) : (setMode m s).ovf = s.ovf := rfl
@[simp] theorem setMode_encOut (m : Mode) (s : State) : (setMode m s).encOut = s.encOut := rfl
@[simp] theorem setMode_serOut (m : Mode) (s : State) : (setMode m s).serOut = s.serOut := rfl

@[simp] theorem raise_cfg (r : Reason) (s : State) : (raise r s).cfg = s.cfg := rfl
@[simp] theorem raise_dec (r : Reason) (s : State) : (raise r s).dec = recover s.dec := rfl
@[simp] theorem raise_ser (r : Reason) (s : State) : (raise r s).ser = s.ser := rfl
@[simp] theorem raise_encWalk (r : Reason) (s : State) : (raise r s).encWalk = s.encWalk := rfl
@[simp] theorem raise_inputs (r : Reason) (s : State) : (raise r s).inputs = s.inputs := rfl
@[simp] theorem raise_event (r : Reason) (s : State) : (raise r s).event = .protocolError r := rfl
@[simp] theorem raise_ovf (r : Reason) (s : State) : (raise r s).ovf = false := rfl
@[simp] theorem raise_encOut (r : Reason) (s : State) : (raise r s).encOut = s.encOut := rfl
@[simp] theorem raise_serOut (r : Reason) (s : State) : (raise r s).serOut = s.serOut := rfl

@[simp] theorem appendAndStay_cfg (v : Byte) (s : State) : (appendAndStay v s).cfg = s.cfg := rfl
@[simp] theorem appendAndStay_dec (v : Byte) (s : State) : (appendAndStay v s).dec = { payAppend s.cfg s.dec v with mode := .inFrame } := rfl
@[simp] theorem appendAndStay_ser (v : Byte) (s : State) : (appendAndStay v s).ser = s.ser := rfl
@[simp] theorem appendAndStay_encWalk (v : Byte) (s : State) : (appendAndStay v s).encWalk = s.encWalk := rfl
@[simp] theorem appendAndStay_inputs (v : Byte) (s : State) : (appendAndStay v s).inputs = s.inputs := rfl
@[simp] theorem appendAndStay_event (v : Byte) (s : State) : (appendAndStay v s).event = .none := rfl
@[simp] theorem appendAndStay_ovf (v : Byte) (s : State) : (appendAndStay v s).ovf = ovfOnAppend s.cfg s.dec := rfl
@[simp] theorem appendAndStay_encOut (v : Byte) (s : State) : (appendAndStay v s).encOut = s.encOut := rfl
@[simp] theorem appendAndStay_serOut (v : Byte) (s : State) : (appendAndStay v s).serOut = s.serOut := rfl

@[simp] theorem outBytes_cfg (bs : Bytes) (s : State) : (outBytes bs s).cfg = s.cfg := rfl
@[simp] theorem outBytes_dec (bs : Bytes) (s : State) : (outBytes bs s).dec = s.dec := rfl
@[simp] theorem outBytes_ser (bs : Bytes) (s : State) : (outBytes bs s).ser = s.ser := rfl
@[simp] theorem outBytes_encWalk (bs : Bytes) (s : State) : (outBytes bs s).encWalk = s.encWalk := rfl
@[simp] theorem outBytes_inputs (bs : Bytes) (s : State) : (outBytes bs s).inputs = s.inputs := rfl
@[simp] theorem outBytes_event (bs : Bytes) (s : State) : (outBytes bs s).event = .none := rfl
@[simp] theorem outBytes_ovf (bs : Bytes) (s : State) : (outBytes bs s).ovf = false := rfl
@[simp] theorem outBytes_encOut (bs : Bytes) (s : State) : (outBytes bs s).encOut = s.encOut ++ bs := rfl
@[simp] theorem outBytes_serOut (bs : Bytes) (s : State) : (outBytes bs s).serOut = s.serOut := rfl

@[simp] theorem withoutOutputs_cfg (s : State) : (withoutOutputs s).cfg = s.cfg := rfl
@[simp] theorem withoutOutputs_dec (s : State) : (withoutOutputs s).dec = s.dec := rfl
@[simp] theorem withoutOutputs_ser (s : State) : (withoutOutputs s).ser = s.ser := rfl
@[simp] theorem withoutOutputs_encWalk (s : State) : (withoutOutputs s).encWalk = s.encWalk := rfl
@[simp] theorem withoutOutputs_inputs (s : State) : (withoutOutputs s).inputs = s.inputs := rfl
@[simp] theorem withoutOutputs_event (s : State) : (withoutOutputs s).event = .none := rfl
@[simp] theorem withoutOutputs_ovf (s : State) : (withoutOutputs s).ovf = false := rfl
@[simp] theorem withoutOutputs_encOut (s : State) : (withoutOutputs s).encOut = s.encOut := rfl
@[simp] theorem withoutOutputs_serOut (s : State) : (withoutOutputs s).serOut = s.serOut := rfl

@[simp] theorem recover_eq (d : Decoder) : recover d = Decoder.reset := rfl

@[simp] theorem payClear_mode (d : Decoder) : (payClear d).mode = d.mode := rfl
@[simp] theorem payClear_frameOpen (d : Decoder) : (payClear d).frameOpen = d.frameOpen := rfl
@[simp] theorem payClear_payload (d : Decoder) : (payClear d).payload = [] := rfl
@[simp] theorem handOff_eq (d : Decoder) : handOff d = d.payload := rfl

@[simp] theorem payAppend_mode (c : Config) (d : Decoder) (v : Byte) : (payAppend c d v).mode = d.mode := by
  unfold payAppend; split <;> rfl
@[simp] theorem payAppend_frameOpen (c : Config) (d : Decoder) (v : Byte) :
    (payAppend c d v).frameOpen = d.frameOpen := by
  unfold payAppend; split <;> rfl

@[simp] theorem serAdvance_buf (z : Serializer) : (serAdvance z).buf = z.buf := rfl
@[simp] theorem serAdvance_idx (z : Serializer) : (serAdvance z).idx = z.idx + 1 := rfl

@[simp] theorem resetWith_cfg (c : Config) : (State.resetWith c).cfg = c := rfl
@[simp] theorem resetWith_dec (c : Config) : (State.resetWith c).dec = Decoder.reset := rfl
@[simp] theorem resetWith_ser (c : Config) : (State.resetWith c).ser = Serializer.reset := rfl

end Sys2Proof.Machine
end

