-- ==== Sys2Proof/Laws/Memory.lean ====
section
/-! SUPPORT. The payload buffer: every operation keeps its form (20_memory.md R51 to R54), a read after an append gives
the byte written, and an append leaves every other cell alone. -/

namespace Sys2Proof.Machine

theorem payAppend_payload (c : Config) (d : Decoder) (v : Byte) :
    (payAppend c d v).payload = if d.payload.length < c.cap then d.payload ++ [v] else d.payload := by
  unfold payAppend appendAddr
  by_cases h : d.payload.length < c.cap <;> simp [h]

theorem ovfOnAppend_eq (c : Config) (d : Decoder) :
    ovfOnAppend c d = !decide (d.payload.length < c.cap) := by
  unfold ovfOnAppend appendAddr
  by_cases h : d.payload.length < c.cap <;> simp [h]

/-- R52: below capacity the strobe is 0, at capacity it is 1. -/
theorem ovfOnAppend_of_wf {c : Config} {d : Decoder} (h : Memory.wf c d.payload = true) :
    ovfOnAppend c d = decide (d.payload.length = c.cap) := by
  rw [ovfOnAppend_eq, ← decide_not]
  have hle := of_decide_eq_true h
  exact decide_eq_decide.mpr ⟨fun k => by omega, fun k => by omega⟩

/-- R24 (I2) to (I5), read out. -/
theorem Decoder.inv_iff (c : Config) (d : Decoder) : d.inv c = true ↔
    (d.mode = .idle → d.frameOpen = false) ∧ (d.mode = .inFrame → d.frameOpen = true) ∧
    (d.frameOpen = false → d.payload = []) ∧ d.payload.length ≤ c.cap := by
  rw [Decoder.inv, decide_eq_true_iff, Memory.wf, decide_eq_true_iff]

/-- R28, read out. -/
theorem Serializer.inv_iff (c : Config) (z : Serializer) : z.inv c = true ↔
    z.buf.length ≤ c.encCap ∧ z.idx ≤ z.buf.length ∧
    (z.phase = .body ∨ z.phase = .bodyMark → z.idx < z.buf.length) ∧
    (z.phase = .bodyMark → z.buf[z.idx]? = some 0x00#8 ∨ z.buf[z.idx]? = some c.escape) ∧
    (z.phase = .postEsc ∨ z.phase = .postMark → z.idx = z.buf.length) ∧
    (z.phase = .preEsc ∨ z.phase = .preMark → z.idx = 0) := by
  rw [Serializer.inv, decide_eq_true_iff]

theorem Decoder.reset_inv (c : Config) : Decoder.reset.inv c = true := by
  simp [Decoder.inv_iff, Decoder.reset]

theorem Serializer.reset_inv (c : Config) : Serializer.reset.inv c = true := by
  simp [Serializer.inv_iff, Serializer.reset]

theorem payAppend_keeps_wf {c : Config} {d : Decoder} (v : Byte) (h : Memory.wf c d.payload = true) :
    Memory.wf c (payAppend c d v).payload = true := by
  rw [payAppend_payload]
  split
  · simp only [Memory.wf, List.length_append, List.length_singleton, decide_eq_true_eq]
    omega
  · exact h

theorem payClear_keeps_wf (c : Config) (d : Decoder) : Memory.wf c (payClear d).payload = true := by
  simp [Memory.wf]

theorem recover_keeps_wf (c : Config) (d : Decoder) : Memory.wf c (recover d).payload = true := by
  simp [Memory.wf, Decoder.reset]

theorem reset_memory_wf : Memory.wf State.reset.cfg State.reset.dec.payload = true := by decide

theorem memRead_payAppend_same {c : Config} {d : Decoder} {v : Byte} {a : Nat}
    (h : appendAddr c d = some a) : memRead (payAppend c d v) a = some v := by
  unfold appendAddr at h
  split at h
  · obtain rfl := Option.some.inj h
    simp [memRead, payAppend_payload, *]
  · cases h

theorem memRead_payAppend_other {c : Config} {d : Decoder} {v : Byte} {a : Nat}
    (h : appendAddr c d ≠ some a) : memRead (payAppend c d v) a = memRead d a := by
  unfold memRead
  rw [payAppend_payload]
  split
  · next hlt =>
    have hne : d.payload.length ≠ a := fun e => h (by rw [appendAddr, if_pos hlt, e])
    rcases Nat.lt_or_gt_of_ne hne with hlt | hgt
    · rw [List.getElem?_eq_none (by simp; omega), List.getElem?_eq_none (by omega)]
    · exact List.getElem?_append_left hgt
  · rfl

end Sys2Proof.Machine
end

