-- ==== Sys2Proof/Laws/Ops.lean ====
section
/-! SUPPORT. For each shared operation, once, everything it can do. -/

namespace Sys2Proof.Machine

/-- A decoder row that answers a next state ran its body in a reachable state that selects it. -/
theorem decoderRow_next {i : Instr} {body : State → State} {s t : State} (h : decoderRow i body s = .next t) :
    s.cfg.wf = true ∧ s.dec.inv s.cfg = true ∧ i.selectedBy s.cfg s.dec.mode s.dec.frameOpen = true ∧ t = body s := by
  unfold decoderRow at h
  split at h
  · split at h
    · split at h
      · exact ⟨‹_›, ‹_›, ‹_›, (Host.Outcome.next.inj h).symm⟩
      · cases h
    · cases h
  · cases h

/-- A decoder row runs its body in every reachable state that selects it. -/
theorem decoderRow_of_selected {i : Instr} {body : State → State} {s : State} (hc : s.cfg.wf = true)
    (hd : s.dec.inv s.cfg = true) (hs : i.selectedBy s.cfg s.dec.mode s.dec.frameOpen = true) :
    decoderRow i body s = .next (body s) := by
  unfold decoderRow
  rw [if_pos hc, if_pos hd, if_pos hs]

/-- An emission row that answers a next state ran its body with a well-formed operand. -/
theorem encoderRow_next {i : Instr} {body : State → State} {s t : State} (h : encoderRow i body s = .next t) :
    s.cfg.wf = true ∧ i.wf s.cfg = true ∧ t = body s := by
  unfold encoderRow at h
  split at h
  · split at h
    · exact ⟨‹_›, ‹_›, (Host.Outcome.next.inj h).symm⟩
    · cases h
  · cases h

theorem encoderRow_of_wf {i : Instr} {body : State → State} {s : State} (hc : s.cfg.wf = true)
    (hi : i.wf s.cfg = true) : encoderRow i body s = .next (body s) := by
  unfold encoderRow
  rw [if_pos hc, if_pos hi]

/-- Running a row that answers a next state is executing the row the input selects. -/
theorem runRow_next {w : Sel} {s t : State} (h : runRow w s = .next t) :
    ∃ i, decode s.cfg s.dec.mode s.dec.frameOpen w = .ok i ∧ exec i s = .next t := by
  unfold runRow at h
  split at h
  · exact ⟨_, ‹_›, h⟩
  · cases h

theorem runRow_of_decode {w : Sel} {s : State} {i : Instr}
    (h : decode s.cfg s.dec.mode s.dec.frameOpen w = .ok i) : runRow w s = exec i s := by
  unfold runRow
  rw [h]

/-- A step that answers a next state ran an element of an encode call, fed a byte, or served a request. -/
theorem step_next {s t : State} (h : step s = .next t) :
    (∃ x rest, s.encWalk = x :: rest ∧ runRow (.enc x) { s with encWalk := rest } = .next t) ∨
    (s.encWalk = [] ∧ ∃ b rest, s.inputs = .byte b :: rest ∧ feed { s with inputs := rest } b = .next t) ∨
    (s.encWalk = [] ∧ ∃ o rest, s.inputs = .op o :: rest ∧ runOp o { s with inputs := rest } = .next t) ∨
    (s.encWalk = [] ∧ s.inputs = [] ∧ runOp .noByte s = .next t) := by
  unfold step fetch at h
  rcases hw : s.encWalk with _ | ⟨x, rest⟩
  · rcases hi : s.inputs with _ | ⟨_ | _, rest⟩
    · exact .inr (.inr (.inr ⟨rfl, rfl, by simpa [hw, hi] using h⟩))
    · exact .inr (.inl ⟨rfl, _, rest, rfl, by simpa [hw, hi, feed] using h⟩)
    · exact .inr (.inr (.inl ⟨rfl, _, rest, rfl, by simpa [hw, hi] using h⟩))
  · exact .inl ⟨x, rest, rfl, by simpa [hw] using h⟩

/-- A request that answers a next state did one of seven things. -/
theorem runOp_next {o : Op} {s t : State} (h : runOp o s = .next t) :
    s.cfg.wf = true ∧ match o with
      | .noByte => t = noByteTick s
      | .start p => s.ser.phase = .idle ∧ p.length ≤ s.cfg.encCap ∧
          t = emit .none false { s with ser := { phase := .preEsc, buf := p, idx := 0 } }
      | .tick => serTick s = .next t
      | .encode p => t = encodeCall p s
      | .reset => t = resetSerializer (resetDecoder s)
      | .resetDecoder => t = resetDecoder s
      | .resetSerializer => t = resetSerializer s := by
  unfold runOp at h
  split at h
  · refine ⟨‹_›, ?_⟩
    cases o with
    | start p =>
      simp only [serStart] at h
      split at h
      · cases h
      · split at h
        · cases h
        · exact ⟨Decidable.not_not.mp ‹_›, Nat.le_of_not_lt ‹_›, (Host.Outcome.next.inj h).symm⟩
    | tick => exact h
    | _ => exact (Host.Outcome.next.inj h).symm
  · cases h

/-- A tick that answers a next state either rested or emitted one byte in a state of R28's invariants. -/
theorem serTick_next {s t : State} (h : serTick s = .next t) :
    (s.ser.phase = .idle ∧ t = emit .none false s) ∨
    (s.ser.phase ≠ .idle ∧ s.ser.inv s.cfg = true ∧ ∃ z b, serEmit s.cfg s.ser = some (z, b) ∧
      t = emit .none false { s with ser := z, serOut := s.serOut ++ [b] }) := by
  unfold serTick at h
  split at h
  · exact .inl ⟨‹_›, (Host.Outcome.next.inj h).symm⟩
  · split at h
    · split at h
      · exact .inr ⟨‹_›, ‹_›, _, _, ‹_›, (Host.Outcome.next.inj h).symm⟩
      · cases h
    · cases h

end Sys2Proof.Machine
end

