-- ==== Sys2Proof/Laws/PerInstr.lean ====
section
/-! SUPPORT. Per-row facts about the transition map as syntax. -/

namespace Sys2Proof.Laws.HasContext

/-- Every row with a well-formed operand is selected in some mode and with some value of the frame-open flag, and there
its input is read as it (R85): no row of the table is dead. -/
def Statement (i : Instr) : Prop :=
  ∀ c : Config, c.wf = true → i.wf c = true → ∃ m fo, decode c m fo (i.encode c) = .ok i

theorem dIdleSkip (b : Byte) : Statement (.dIdleSkip b) := fun c h hi =>
  ⟨.idle, false, by
    have hb : b ≠ c.escape := by simpa [Instr.wf] using hi
    simp only [Instr.encode, decode_of_wf_idle h, decodeIdle, cls1_raw hb]⟩

theorem dIdleEsc : Statement .dIdleEsc := fun c h _ =>
  ⟨.idle, false, by simp only [Instr.encode, decode_of_wf_idle h, decodeIdle, cls1_escape]⟩

theorem dEscBegin : Statement .dEscBegin := fun c h _ =>
  ⟨.escaped, false, by simp only [Instr.encode, decode_of_wf_escaped h, decodeEscaped, cls2_frameBegin]⟩

theorem dEscBeginNested : Statement .dEscBeginNested := fun c h _ =>
  ⟨.escaped, true, by simp only [Instr.encode, decode_of_wf_escaped h, decodeEscaped, cls2_frameBegin]⟩

theorem dEscEnd : Statement .dEscEnd := fun c h _ =>
  ⟨.escaped, true, by simp only [Instr.encode, decode_of_wf_escaped h, decodeEscaped, cls2_frameEnd h]⟩

theorem dEscEndStray : Statement .dEscEndStray := fun c h _ =>
  ⟨.escaped, false, by simp only [Instr.encode, decode_of_wf_escaped h, decodeEscaped, cls2_frameEnd h]⟩

theorem dEscLitesc : Statement .dEscLitesc := fun c h _ =>
  ⟨.escaped, true, by simp only [Instr.encode, decode_of_wf_escaped h, decodeEscaped, cls2_literalEscape h]⟩

theorem dEscLitzero : Statement .dEscLitzero := fun c h _ =>
  ⟨.escaped, true, by simp only [Instr.encode, decode_of_wf_escaped h, decodeEscaped, cls2_literalZero h]⟩

theorem dEscLitescStray : Statement .dEscLitescStray := fun c h _ =>
  ⟨.escaped, false, by simp only [Instr.encode, decode_of_wf_escaped h, decodeEscaped, cls2_literalEscape h]⟩

theorem dEscLitzeroStray : Statement .dEscLitzeroStray := fun c h _ =>
  ⟨.escaped, false, by simp only [Instr.encode, decode_of_wf_escaped h, decodeEscaped, cls2_literalZero h]⟩

theorem dEscUnknown (b : Byte) : Statement (.dEscUnknown b) := fun c h hi =>
  ⟨.escaped, false, by
    have hb : cls2 c b = .other := (cls2_other_iff c b).mpr (by simpa [Instr.wf, and_assoc] using hi)
    simp only [Instr.encode, decode_of_wf_escaped h, decodeEscaped, hb]⟩

theorem dFrameEsc : Statement .dFrameEsc := fun c h _ =>
  ⟨.inFrame, true, by simp only [Instr.encode, decode_of_wf_inFrame h, decodeInFrame, cls1_escape]⟩

theorem dFrameData (b : Byte) : Statement (.dFrameData b) := fun c h hi =>
  ⟨.inFrame, true, by
    have hb : b ≠ c.escape := by simpa [Instr.wf] using hi
    simp only [Instr.encode, decode_of_wf_inFrame h, decodeInFrame, cls1_raw hb]⟩

theorem ePreamble : Statement .ePreamble := fun c h _ =>
  ⟨.idle, false, by simp only [Instr.encode, decode_of_wf_enc h, decodeTok]⟩

theorem eZero : Statement .eZero := fun c h _ =>
  ⟨.idle, false, by simp [Instr.encode, decode_of_wf_enc h, decodeTok]⟩

theorem eEscape : Statement .eEscape := fun c h _ =>
  ⟨.idle, false, by simp [Instr.encode, decode_of_wf_enc h, decodeTok, Config.nonzero_of_wf h]⟩

theorem eVerbatim (v : Byte) : Statement (.eVerbatim v) := fun c h hi =>
  ⟨.idle, false, by
    obtain ⟨h0, he⟩ : v ≠ 0x00#8 ∧ v ≠ c.escape := by simpa [Instr.wf] using hi
    simp [Instr.encode, decode_of_wf_enc h, decodeTok, h0, he]⟩

theorem ePostamble : Statement .ePostamble := fun c h _ =>
  ⟨.idle, false, by simp only [Instr.encode, decode_of_wf_enc h, decodeTok]⟩

end Sys2Proof.Laws.HasContext
end

