-- ==== Sys2Proof/Laws/Rows.lean ====
section
/-! SUPPORT. Everything `exec` can do, said once: the effect of each row and when it takes place. -/

namespace Sys2Proof.Machine

/-- The effect of each row, with the shared operations in their plain form. -/
def rowEffect (i : Instr) (s : State) : State :=
  match i with
  | .dIdleSkip _ => emit .none false s
  | .dIdleEsc => emit .none false (setMode .escaped s)
  | .dEscBegin => emit .none false { s with dec := { mode := .inFrame, frameOpen := true, payload := [] } }
  | .dEscBeginNested => raise .unexpectedBegin s
  | .dEscEnd => emit (.frameReady s.dec.payload) false { s with dec := Decoder.reset }
  | .dEscEndStray => raise .unexpectedEnd s
  | .dEscLitesc => appendAndStay s.cfg.escape s
  | .dEscLitzero => appendAndStay 0x00#8 s
  | .dEscLitescStray => raise .literalOutsideFrame s
  | .dEscLitzeroStray => raise .literalOutsideFrame s
  | .dEscUnknown _ => raise .unknownControlSequence s
  | .dFrameEsc => emit .none false (setMode .escaped s)
  | .dFrameData b => appendAndStay b s
  | .ePreamble => outBytes [s.cfg.escape, s.cfg.frameBegin] s
  | .eZero => outBytes [s.cfg.escape, s.cfg.literalZero] s
  | .eEscape => outBytes [s.cfg.escape, s.cfg.literalEscape] s
  | .eVerbatim v => outBytes [v] s
  | .ePostamble => outBytes [s.cfg.escape, s.cfg.frameEnd] s

/-- A row that answers a next state had its effect, under a well-formed configuration, with a well-formed operand; a
decoder row in a reachable state that selects it. -/
theorem exec_next {i : Instr} {s t : State} (h : exec i s = .next t) :
    s.cfg.wf = true ∧ i.wf s.cfg = true ∧ t = rowEffect i s ∧
    (i.isDecoderRow = true →
      s.dec.inv s.cfg = true ∧ i.selectedBy s.cfg s.dec.mode s.dec.frameOpen = true) := by
  have hsel : ∀ j : Instr, j.selectedBy s.cfg s.dec.mode s.dec.frameOpen = true → j.wf s.cfg = true := by
    intro j hj
    simp only [Instr.selectedBy, Bool.and_eq_true] at hj
    exact hj.1.1
  cases i <;> simp only [exec, execDIdleSkip, execDIdleEsc, execDEscBegin, execDEscBeginNested, execDEscEnd,
    execDEscEndStray, execDEscLitesc, execDEscLitzero, execDEscLitescStray, execDEscLitzeroStray, execDEscUnknown,
    execDFrameEsc, execDFrameData, execEPreamble, execEZero, execEEscape, execEVerbatim, execEPostamble] at h
  case ePreamble | eZero | eEscape | eVerbatim | ePostamble =>
    obtain ⟨hc, hw, rfl⟩ := encoderRow_next h
    exact ⟨hc, hw, rfl, fun hd => absurd hd (by simp [Instr.isDecoderRow, Instr.rowMode])⟩
  all_goals
    obtain ⟨hc, hi, hs, rfl⟩ := decoderRow_next h
    exact ⟨hc, hsel _ hs, rfl, fun _ => ⟨hi, hs⟩⟩

/-- A decoder row has its effect in every reachable state that selects it. -/
theorem exec_decoderRow {i : Instr} {s : State} (hr : i.isDecoderRow = true) (hc : s.cfg.wf = true)
    (hi : s.dec.inv s.cfg = true) (hs : i.selectedBy s.cfg s.dec.mode s.dec.frameOpen = true) :
    exec i s = .next (rowEffect i s) := by
  cases i
  case ePreamble | eZero | eEscape | eVerbatim | ePostamble => simp [Instr.isDecoderRow, Instr.rowMode] at hr
  all_goals
    simp only [exec, execDIdleSkip, execDIdleEsc, execDEscBegin, execDEscBeginNested, execDEscEnd,
      execDEscEndStray, execDEscLitesc, execDEscLitzero, execDEscLitescStray, execDEscLitzeroStray, execDEscUnknown,
      execDFrameEsc, execDFrameData]
    rw [decoderRow_of_selected hc hi hs]
    rfl

/-- An emission row has its effect for every well-formed operand. -/
theorem exec_encoderRow {i : Instr} {s : State} (hr : i.isDecoderRow = false) (hc : s.cfg.wf = true)
    (hw : i.wf s.cfg = true) : exec i s = .next (rowEffect i s) := by
  cases i
  case ePreamble | eZero | eEscape | eVerbatim | ePostamble => exact encoderRow_of_wf hc hw
  all_goals simp [Instr.isDecoderRow, Instr.rowMode] at hr

/-- What an append does, in plain form. -/
theorem appendAndStay_eq (v : Byte) (s : State) : appendAndStay v s = { s with
    dec := { mode := .inFrame, frameOpen := s.dec.frameOpen,
             payload := if s.dec.payload.length < s.cfg.cap then s.dec.payload ++ [v] else s.dec.payload },
    event := .none, ovf := !decide (s.dec.payload.length < s.cfg.cap) } := by
  rw [← ovfOnAppend_eq, ← payAppend_payload, ← payAppend_frameOpen s.cfg s.dec v]
  rfl

/-- The row a fed byte selects is one of the decoder's. -/
theorem decode_rx_isDecoderRow {c : Config} {m : Mode} {fo : Bool} {b : Byte} {i : Instr}
    (h : decode c m fo (.rx b) = .ok i) : i.isDecoderRow = true := by
  unfold decode at h
  split at h
  · cases m <;> cases fo <;> cases h <;> simp only [decodeIdle, decodeEscaped, decodeInFrame] <;> split <;> rfl
  · cases h

/-- The row an element of an encode call selects is one of the encoder's. -/
theorem decode_enc_isDecoderRow {c : Config} {m : Mode} {fo : Bool} {t : EncTok} {i : Instr}
    (h : decode c m fo (.enc t) = .ok i) : i.isDecoderRow = false := by
  unfold decode at h
  split at h
  · cases h
    cases t with
    | payloadByte v => simp only [decodeTok]; split_ifs <;> rfl
    | _ => rfl
  · cases h

/-- A fed byte that answers a next state had the effect of the decoder row it selected. -/
theorem feed_next {s t : State} {b : Byte} (h : feed s b = .next t) :
    s.cfg.wf = true ∧ s.dec.inv s.cfg = true ∧ ∃ i : Instr, i.isDecoderRow = true ∧
      decode s.cfg s.dec.mode s.dec.frameOpen (.rx b) = .ok i ∧ t = rowEffect i s := by
  obtain ⟨i, hd, he⟩ := runRow_next h
  have hr := decode_rx_isDecoderRow hd
  obtain ⟨hc, -, ht, hsel⟩ := exec_next he
  exact ⟨hc, (hsel hr).1, i, hr, hd, ht⟩

end Sys2Proof.Machine
end

