-- ==== Sys2Proof/Laws/Run.lean ====
section
/-! SUPPORT. Runs: a run over two streams is the run over the first and then the run over the second. -/

namespace Sys2Proof.Machine

theorem run_nil (s : State) : run s [] = .next { state := s, events := [], ovfSteps := 0 } := rfl

/-- A fed byte that answers a next state puts its outputs before the rest of the run. -/
theorem run_cons {s t : State} {b : Byte} (w : Bytes) (h : feed s b = .next t) :
    run s (b :: w) = record t (run t w) := by
  simp [run, h]

/-- A run over `u ++ w` goes through the final state of the run over `u`. -/
theorem run_append {s : State} {u : Bytes} {r r' : RunResult} {w : Bytes} (hu : run s u = .next r)
    (hw : run r.state w = .next r') :
    run s (u ++ w) = .next { state := r'.state, events := r.events ++ r'.events,
                             ovfSteps := r.ovfSteps + r'.ovfSteps } := by
  induction u generalizing s r with
  | nil =>
    obtain rfl := Host.Outcome.next.inj hu
    simpa using hw
  | cons b u ih =>
    simp only [run, List.cons_append] at hu ⊢
    split at hu
    · next t ht =>
      unfold record at hu
      split at hu
      · next r₀ hr₀ =>
        obtain rfl := Host.Outcome.next.inj hu
        rw [ih hr₀ hw]
        simp [record, Nat.add_assoc]
      · cases hu
      · cases hu
    · cases hu
    · cases hu

/-- With an encode call in progress a step runs the row of its next element. -/
theorem step_walk {s : State} {t : EncTok} {rest : List EncTok} (hw : s.encWalk = t :: rest) :
    step s = runRow (.enc t) { s with encWalk := rest } := by
  simp only [step, fetch, hw]

/-- With no encode call in progress a step feeds a waiting byte. -/
theorem step_byte {s : State} {b : Byte} {rest : List Input} (hw : s.encWalk = []) (hi : s.inputs = .byte b :: rest) :
    step s = feed { s with inputs := rest } b := by
  simp only [step, fetch, hw, hi, feed]

/-- With no encode call in progress a step serves a waiting request. -/
theorem step_op {s : State} {o : Op} {rest : List Input} (hw : s.encWalk = []) (hi : s.inputs = .op o :: rest) :
    step s = runOp o { s with inputs := rest } := by
  simp only [step, fetch, hw, hi]

theorem runSteps_succ {s t : State} (n : Nat) (h : step s = .next t) : runSteps (n + 1) s = runSteps n t := by
  simp [runSteps, h]

end Sys2Proof.Machine
end

