-- ==== Sys2Proof/Tests/Slice0.lean ====
section
/-! SUPPORT. Checks of the model against the words and vectors of the spec (30_encoding.md R82, 95_test_vectors.md), and a
witness that meets the hypotheses of every obligation that has some. -/

open Sys2Proof Sys2Proof.Machine

namespace Sys2Proof.Tests

/-- The alphabet of REF with four payload cells (95_test_vectors.md O2, P4). -/
def small : Config := { Config.ref with cap := 4 }

/-- A decoder state as 95_test_vectors.md writes it: (mode, frame_open, payload). -/
def at64 (m : Mode) (fo : Bool) (p : Bytes) : State :=
  { State.reset with dec := { mode := m, frameOpen := fo, payload := p } }

/-- The same with four payload cells. -/
def at4 (m : Mode) (fo : Bool) (p : Bytes) : State :=
  { State.resetWith small with dec := { mode := m, frameOpen := fo, payload := p } }

/-- A serializer state: (e_phase, e_buf, e_idx). -/
def serAt (ph : SerPhase) (p : Bytes) (k : Nat) : State :=
  { State.reset with ser := { phase := ph, buf := p, idx := k } }

/-- A state with requests waiting. -/
def asked (s : State) (l : List Input) : State := { s with inputs := l }

/-- A state with the outputs of the step that led to it. -/
def gives (s : State) (e : Event) (o : Bool) : State := { s with event := e, ovf := o }

/-- The full buffer of O2. -/
def full : Bytes := [0x01#8, 0x02#8, 0x03#8, 0x04#8]

/-! ## Well-formedness -/

theorem test_wf_refuses_escape_as_idle_skip : Instr.wf Config.ref (.dIdleSkip 0x41#8) = false := by decide
theorem test_wf_accepts_begin_as_idle_skip : Instr.wf Config.ref (.dIdleSkip 0x42#8) = true := by decide
theorem test_wf_refuses_begin_as_unknown : Instr.wf Config.ref (.dEscUnknown 0x42#8) = false := by decide
theorem test_wf_refuses_end_as_unknown : Instr.wf Config.ref (.dEscUnknown 0x43#8) = false := by decide
theorem test_wf_refuses_literal_zero_as_unknown : Instr.wf Config.ref (.dEscUnknown 0x44#8) = false := by decide
theorem test_wf_refuses_literal_escape_as_unknown : Instr.wf Config.ref (.dEscUnknown 0x45#8) = false := by decide
theorem test_wf_accepts_escape_as_unknown : Instr.wf Config.ref (.dEscUnknown 0x41#8) = true := by decide
theorem test_wf_refuses_escape_as_data : Instr.wf Config.ref (.dFrameData 0x41#8) = false := by decide
theorem test_wf_refuses_zero_as_verbatim : Instr.wf Config.ref (.eVerbatim 0x00#8) = false := by decide
theorem test_wf_refuses_escape_as_verbatim : Instr.wf Config.ref (.eVerbatim 0x41#8) = false := by decide
theorem test_wf_refuses_equal_values : Config.wf { Config.ref with literalZero := 0x45#8 } = false := by decide
theorem test_wf_refuses_escape_as_marker : Config.wf { Config.ref with frameBegin := 0x41#8 } = false := by decide
theorem test_wf_refuses_zero_value : Config.wf { Config.ref with frameEnd := 0x00#8 } = false := by decide
theorem test_wf_refuses_no_capacity : Config.wf { Config.ref with cap := 0 } = false := by decide
theorem test_wf_accepts_small : small.wf = true := by decide

/-! ## Decoding: the bytes of R82, bit by bit -/

theorem test_decode_idle :
    decode Config.ref .idle false (.rx 0b01000001#8) = .ok .dIdleEsc ∧
    decode Config.ref .idle false (.rx 0b01000010#8) = .ok (.dIdleSkip 0b01000010#8) ∧
    decode Config.ref .idle false (.rx 0b00000000#8) = .ok (.dIdleSkip 0b00000000#8) := by decide

theorem test_decode_escaped_closed :
    decode Config.ref .escaped false (.rx 0b01000010#8) = .ok .dEscBegin ∧
    decode Config.ref .escaped false (.rx 0b01000011#8) = .ok .dEscEndStray ∧
    decode Config.ref .escaped false (.rx 0b01000100#8) = .ok .dEscLitzeroStray ∧
    decode Config.ref .escaped false (.rx 0b01000101#8) = .ok .dEscLitescStray ∧
    decode Config.ref .escaped false (.rx 0b01000001#8) = .ok (.dEscUnknown 0b01000001#8) := by decide

theorem test_decode_escaped_open :
    decode Config.ref .escaped true (.rx 0b01000010#8) = .ok .dEscBeginNested ∧
    decode Config.ref .escaped true (.rx 0b01000011#8) = .ok .dEscEnd ∧
    decode Config.ref .escaped true (.rx 0b01000100#8) = .ok .dEscLitzero ∧
    decode Config.ref .escaped true (.rx 0b01000101#8) = .ok .dEscLitesc ∧
    decode Config.ref .escaped true (.rx 0b00000000#8) = .ok (.dEscUnknown 0b00000000#8) := by decide

theorem test_decode_in_frame :
    decode Config.ref .inFrame true (.rx 0b01000001#8) = .ok .dFrameEsc ∧
    decode Config.ref .inFrame true (.rx 0b01000011#8) = .ok (.dFrameData 0b01000011#8) := by decide

theorem test_decode_encoder :
    decode Config.ref .idle false (.enc .payloadStart) = .ok .ePreamble ∧
    decode Config.ref .idle false (.enc (.payloadByte 0b00000000#8)) = .ok .eZero ∧
    decode Config.ref .idle false (.enc (.payloadByte 0b01000001#8)) = .ok .eEscape ∧
    decode Config.ref .idle false (.enc (.payloadByte 0b01100001#8)) = .ok (.eVerbatim 0b01100001#8) ∧
    decode Config.ref .idle false (.enc .payloadEnd) = .ok .ePostamble := by decide

theorem test_decode_rejects :
    decode Config.ref .idle true (.rx 0x42#8) = .error .idleWhileOpen ∧
    decode Config.ref .inFrame false (.rx 0x42#8) = .error .inFrameWhileClosed ∧
    decode { Config.ref with cap := 0 } .idle false (.rx 0x42#8) = .error .illFormedConfig := by decide

theorem test_table_words :
    decodeTableWord 8 0x41 = some .dIdleEsc ∧ decodeTableWord 8 0x42 = some .dEscBegin ∧
    decodeTableWord 8 0x43 = some .dEscEnd ∧ decodeTableWord 8 0x44 = some .dEscLitzero ∧
    decodeTableWord 8 0x45 = some .dEscLitesc ∧ decodeTableWord 8 0x00 = some .eZero ∧
    decodeTableWord 0 0 = some .ePreamble ∧ decodeTableWord 16 0x41 = none := by decide

theorem test_placed_begin_runs :
    step (State.reset.withFetchWord 8 0x42) = .next (gives (at64 .inFrame true []) .none false) := rfl

theorem test_placed_zero_runs :
    step (State.reset.withFetchWord 8 0x00) = .next { State.reset with encOut := [0x41#8, 0x44#8] } := rfl

/-! ## One step of each decoder row: the vectors V1 to V25 of 95_test_vectors.md -/

theorem test_V1 : feed (at64 .idle false []) 0x42#8 = .next (gives (at64 .idle false []) .none false) := rfl
theorem test_V2 : feed (at64 .idle false []) 0x00#8 = .next (gives (at64 .idle false []) .none false) := rfl
theorem test_V3 : feed (at64 .idle false []) 0x41#8 = .next (gives (at64 .escaped false []) .none false) := rfl
theorem test_V4 : feed (at64 .escaped false []) 0x42#8 = .next (gives (at64 .inFrame true []) .none false) := rfl
theorem test_V5 : feed (at64 .escaped true [0x48#8]) 0x42#8 =
    .next (gives (at64 .idle false []) (.protocolError .unexpectedBegin) false) := rfl
theorem test_V6 : feed (at64 .escaped true [0x48#8, 0x56#8, 0x1F#8]) 0x43#8 =
    .next (gives (at64 .idle false []) (.frameReady [0x48#8, 0x56#8, 0x1F#8]) false) := rfl
theorem test_V7 : feed (at64 .escaped true []) 0x43#8 =
    .next (gives (at64 .idle false []) (.frameReady []) false) := rfl
theorem test_V8 : feed (at64 .escaped false []) 0x43#8 =
    .next (gives (at64 .idle false []) (.protocolError .unexpectedEnd) false) := rfl
theorem test_V9 : feed (at64 .escaped true [0x00#8]) 0x45#8 =
    .next (gives (at64 .inFrame true [0x00#8, 0x41#8]) .none false) := rfl
theorem test_V10 : feed (at64 .escaped true []) 0x44#8 =
    .next (gives (at64 .inFrame true [0x00#8]) .none false) := rfl
theorem test_V11 : feed (at64 .escaped false []) 0x45#8 =
    .next (gives (at64 .idle false []) (.protocolError .literalOutsideFrame) false) := rfl
theorem test_V12 : feed (at64 .escaped false []) 0x44#8 =
    .next (gives (at64 .idle false []) (.protocolError .literalOutsideFrame) false) := rfl
theorem test_V13 : feed (at64 .escaped true [0x48#8, 0x56#8]) 0x5A#8 =
    .next (gives (at64 .idle false []) (.protocolError .unknownControlSequence) false) := rfl
theorem test_V14 : feed (at64 .escaped false []) 0x41#8 =
    .next (gives (at64 .idle false []) (.protocolError .unknownControlSequence) false) := rfl
theorem test_V16 : feed (at64 .inFrame true [0x48#8, 0x56#8, 0x1F#8]) 0x41#8 =
    .next (gives (at64 .escaped true [0x48#8, 0x56#8, 0x1F#8]) .none false) := rfl
theorem test_V17 : feed (at64 .inFrame true [0x48#8]) 0x56#8 =
    .next (gives (at64 .inFrame true [0x48#8, 0x56#8]) .none false) := rfl
/-- O2, step 7. -/
theorem test_V20_small : feed (at4 .inFrame true full) 0x05#8 =
    .next (gives (at4 .inFrame true full) .none true) := rfl
/-- O2, step 11. -/
theorem test_V21_small : feed (at4 .escaped true full) 0x45#8 =
    .next (gives (at4 .inFrame true full) .none true) := rfl
/-- O2, step 9. -/
theorem test_V22_small : feed (at4 .escaped true full) 0x44#8 =
    .next (gives (at4 .inFrame true full) .none true) := rfl
/-- O2, step 8. -/
theorem test_V23_small : feed (at4 .inFrame true full) 0x41#8 =
    .next (gives (at4 .escaped true full) .none false) := rfl
theorem test_V25 : step (at64 .escaped true [0x48#8]) = .next (gives (at64 .escaped true [0x48#8]) .none false) := rfl

/-! ## The encoder's rows and calls -/

/-- R144 to R141: "every encoded message in `REF` begins `41 42`", "`v = 00` emits `41 44`" and so on. -/
theorem test_emission_rows :
    runRow (.enc .payloadStart) State.reset = .next { State.reset with encOut := [0x41#8, 0x42#8] } ∧
    runRow (.enc (.payloadByte 0x00#8)) State.reset = .next { State.reset with encOut := [0x41#8, 0x44#8] } ∧
    runRow (.enc (.payloadByte 0x41#8)) State.reset = .next { State.reset with encOut := [0x41#8, 0x45#8] } ∧
    runRow (.enc (.payloadByte 0x61#8)) State.reset = .next { State.reset with encOut := [0x61#8] } ∧
    runRow (.enc .payloadEnd) State.reset = .next { State.reset with encOut := [0x41#8, 0x43#8] } := ⟨rfl, rfl, rfl, rfl, rfl⟩

/-- V-ENC, the row of `[80 00 41]`. -/
theorem test_encode_message : encodeMessage Config.ref [0x80#8, 0x00#8, 0x41#8] =
    [0x41#8, 0x42#8, 0x80#8, 0x41#8, 0x44#8, 0x41#8, 0x45#8, 0x41#8, 0x43#8] := by decide

/-- R173, E2. -/
theorem test_encode_literals : encodeMessage Config.ref [0x00#8, 0x41#8] =
    [0x41#8, 0x42#8, 0x41#8, 0x44#8, 0x41#8, 0x45#8, 0x41#8, 0x43#8] := by decide

/-! ## The serializer: rows of V-SER -/

theorem test_ser_start : runOp (.start [0x00#8, 0x41#8]) State.reset =
    .next (serAt .preEsc [0x00#8, 0x41#8] 0) := rfl
theorem test_ser_pre_mark : runOp .tick (serAt .preMark [0x00#8, 0x41#8] 0) =
    .next { serAt .body [0x00#8, 0x41#8] 0 with serOut := [0x42#8] } := rfl
theorem test_ser_pre_mark_empty : runOp .tick (serAt .preMark [] 0) =
    .next { serAt .postEsc [] 0 with serOut := [0x42#8] } := rfl
theorem test_ser_body_zero : runOp .tick (serAt .body [0x00#8, 0x41#8] 0) =
    .next { serAt .bodyMark [0x00#8, 0x41#8] 0 with serOut := [0x41#8] } := rfl
theorem test_ser_body_mark_zero : runOp .tick (serAt .bodyMark [0x00#8, 0x41#8] 0) =
    .next { serAt .body [0x00#8, 0x41#8] 1 with serOut := [0x44#8] } := rfl
theorem test_ser_body_mark_escape : runOp .tick (serAt .bodyMark [0x00#8, 0x41#8] 1) =
    .next { serAt .postEsc [0x00#8, 0x41#8] 2 with serOut := [0x45#8] } := rfl
theorem test_ser_body_last : runOp .tick (serAt .body [0x48#8, 0x56#8, 0x1F#8] 2) =
    .next { serAt .postEsc [0x48#8, 0x56#8, 0x1F#8] 3 with serOut := [0x1F#8] } := rfl
theorem test_ser_post_mark : runOp .tick (serAt .postMark [0x00#8, 0x41#8] 2) =
    .next { serAt .idle [0x00#8, 0x41#8] 2 with serOut := [0x43#8] } := rfl

/-! ## Witnesses: for every obligation with hypotheses, states and operands that meet all of them together -/

theorem witness_EveryRowDecodesBackFromItsInput :
    Config.ref.wf = true ∧
    (∀ i ∈ [Instr.dIdleSkip 0x00#8, .dIdleEsc], i.selectedBy Config.ref .idle false = true) ∧
    (∀ i ∈ [Instr.dEscBegin, .dEscEndStray, .dEscLitescStray, .dEscLitzeroStray, .dEscUnknown 0x41#8],
      i.selectedBy Config.ref .escaped false = true) ∧
    (∀ i ∈ [Instr.dEscBeginNested, .dEscEnd, .dEscLitesc, .dEscLitzero, .dEscUnknown 0xFF#8],
      i.selectedBy Config.ref .escaped true = true) ∧
    (∀ i ∈ [Instr.dFrameEsc, .dFrameData 0x43#8], i.selectedBy Config.ref .inFrame true = true) ∧
    (∀ i ∈ [Instr.ePreamble, .eZero, .eEscape, .eVerbatim 0x61#8, .ePostamble],
      i.selectedBy Config.ref .idle false = true) := by decide

theorem witness_DecodedRowIsSelectedAndHasThatInput :
    decode Config.ref .escaped true (.rx 0x00#8) = .ok (.dEscUnknown 0x00#8) ∧
    decode Config.ref .idle false (.enc .payloadEnd) = .ok .ePostamble := by decide

theorem witness_EachReachableStateAndByteSelectExactlyOneRow :
    small.wf = true ∧ (at4 .idle false []).dec.inv small = true ∧ (at4 .escaped false []).dec.inv small = true ∧
    (at4 .escaped true full).dec.inv small = true ∧ (at4 .inFrame true []).dec.inv small = true ∧
    (at4 .inFrame true full).dec.inv small = true := by decide

/-- For UnknownMarkersAreTwoHundredFiftyTwo and every other statement about every well-formed configuration. -/
theorem witness_UnknownMarkersAreTwoHundredFiftyTwo : Config.ref.wf = true ∧ small.wf = true := by decide

theorem witness_IdleSkipDiscardsTheByte :
    DecoderReady State.reset .idle false ∧ 0x00#8 ≠ State.reset.cfg.escape ∧ 0x42#8 ≠ State.reset.cfg.escape := by decide

theorem witness_IdleEscapeEntersEscaped : DecoderReady State.reset .idle false := by decide

/-- Both clauses: a closed frame, and the one row that opens it. -/
theorem witness_BeginOpensAnEmptyFrame :
    DecoderReady (at64 .escaped false []) .escaped false ∧
    exec .dEscBegin (at64 .escaped false []) = .next (at64 .inFrame true []) ∧
    (at64 .escaped false []).dec.frameOpen = false ∧ (at64 .inFrame true []).dec.frameOpen = true :=
  ⟨by decide, rfl, rfl, rfl⟩

theorem witness_NestedBeginForceClosesTheFrame :
    DecoderReady (at64 .escaped true [0x48#8]) .escaped true ∧ DecoderReady (at4 .escaped true full) .escaped true := by
  decide

/-- With the empty payload, and with a full buffer. -/
theorem witness_EndDeliversThePayloadAndCloses :
    DecoderReady (at64 .escaped true []) .escaped true ∧ DecoderReady (at4 .escaped true full) .escaped true ∧
    exec .dEscEnd (at4 .escaped true full) = .next (gives (at4 .idle false []) (.frameReady full) false) :=
  ⟨by decide, by decide, rfl⟩

theorem witness_StrayEndRaisesUnexpectedEnd : DecoderReady (at64 .escaped false []) .escaped false := by decide

/-- Below capacity and at capacity. -/
theorem witness_LiteralEscapeAppendsTheEscapeValue :
    DecoderReady (at4 .escaped true (full.take 3)) .escaped true ∧ DecoderReady (at4 .escaped true full) .escaped true := by
  decide

/-- The empty buffer and the full one. -/
theorem witness_LiteralZeroAppendsZero :
    DecoderReady (at64 .escaped true []) .escaped true ∧ DecoderReady (at4 .escaped true full) .escaped true := by decide

theorem witness_StrayLiteralsRaiseLiteralOutsideFrame : DecoderReady (at4 .escaped false []) .escaped false := by decide

/-- `ESCAPE` and 0x00 as the byte, with the frame open and closed. -/
theorem witness_UnknownMarkerForceCloses :
    DecoderReady (at4 .escaped true full) .escaped true ∧ DecoderReady (at4 .escaped false []) .escaped false ∧
    ∀ b ∈ [0x00#8, 0x41#8, 0xFF#8], b ≠ small.frameBegin ∧ b ≠ small.frameEnd ∧ b ≠ small.literalEscape ∧
      b ≠ small.literalZero := by decide

theorem witness_FrameEscapeKeepsTheFrameOpen :
    DecoderReady (at4 .inFrame true full) .inFrame true ∧
    exec .dEscLitesc (at4 .escaped true [0x00#8]) = .next (at4 .inFrame true [0x00#8, 0x41#8]) :=
  ⟨by decide, rfl⟩

theorem witness_FrameDataAppendsTheByte :
    DecoderReady (at4 .inFrame true []) .inFrame true ∧ DecoderReady (at4 .inFrame true full) .inFrame true ∧
    0x00#8 ≠ small.escape ∧ small.frameEnd ≠ small.escape := by decide

/-- For the statements about the encoder's rows: a marker value, 0x61 and 0xFF are sent verbatim. -/
theorem witness_OtherPayloadBytesAreEmittedVerbatim :
    State.reset.cfg.wf = true ∧ ∀ v ∈ [0x42#8, 0x61#8, 0xFF#8], v ≠ 0x00#8 ∧ v ≠ State.reset.cfg.escape := by decide

/-- For PreambleAndPostambleEmitTheDelimiters and ZeroAndEscapeAreStuffed. -/
theorem witness_PreambleAndPostambleEmitTheDelimiters : (at4 .inFrame true full).cfg.wf = true := by decide

/-- The four clauses. -/
theorem witness_StepRunsTheDecodedRow :
    decode Config.ref .idle false (.enc .payloadEnd) = .ok .ePostamble ∧
    { State.reset with encWalk := [.payloadEnd] }.encWalk = [EncTok.payloadEnd] ∧
    (asked State.reset [.byte 0x41#8]).encWalk = [] ∧ (asked State.reset [.byte 0x41#8]).inputs = [.byte 0x41#8] ∧
    decode Config.ref .idle false (.rx 0x41#8) = .ok .dIdleEsc ∧
    (asked State.reset [.op .tick]).inputs = [.op .tick] ∧ State.reset.inputs = [] := by decide

theorem witness_TicksWithoutAByteChangeNothing :
    (asked (at64 .escaped true [0x48#8]) [.op .noByte, .op .noByte, .byte 0x43#8]).inputs =
      List.replicate (1 + 1) (.op .noByte) ++ [.byte 0x43#8] ∧
    (at64 .escaped true [0x48#8]).cfg.wf = true ∧ (at64 .escaped true [0x48#8]).encWalk = [] := by decide

theorem witness_ResetOperationsRestoreTheResetState : (at4 .inFrame true full).cfg.wf = true := by decide

/-- The longest payload that fits, a busy serializer, and one byte too many. -/
theorem witness_StartLoadsThePayloadOrIsRefused :
    State.reset.cfg.wf = true ∧ State.reset.ser.phase = .idle ∧
    (List.replicate 64 0xAA#8).length ≤ State.reset.cfg.encCap ∧ (serAt .preEsc [] 0).ser.phase ≠ .idle ∧
    State.reset.cfg.encCap < (List.replicate 65 0xAA#8).length := by decide

/-- Each phase, with the empty payload and with one. -/
theorem witness_TickAroundTheBody :
    (∀ ph ∈ [SerPhase.preEsc, .preMark, .postEsc, .postMark],
      (serAt ph [] 0).ser.phase = ph ∧ (serAt ph [] 0).ser.inv Config.ref = true) ∧
    (serAt .preMark [0x00#8] 0).ser.inv Config.ref = true ∧ (serAt .postMark [0x00#8] 1).ser.inv Config.ref = true ∧
    (serAt .idle [0x00#8] 1).ser.phase = .idle := by decide

/-- The three clauses, at the last byte and before it, for both stuffed values. -/
theorem witness_TickInTheBody :
    (serAt .body [0x00#8, 0x41#8] 0).ser.inv Config.ref = true ∧ [0x00#8, 0x41#8][0]? = some 0x00#8 ∧
    (serAt .body [0x00#8, 0x41#8] 1).ser.inv Config.ref = true ∧ [0x00#8, 0x41#8][1]? = some Config.ref.escape ∧
    (serAt .body [0x48#8, 0x1F#8] 0).ser.inv Config.ref = true ∧ (serAt .body [0x48#8, 0x1F#8] 1).ser.inv Config.ref = true ∧
    0x1F#8 ≠ 0x00#8 ∧ 0x1F#8 ≠ Config.ref.escape ∧
    (serAt .bodyMark [0x00#8, 0x41#8] 0).ser.inv Config.ref = true ∧
    (serAt .bodyMark [0x00#8, 0x41#8] 1).ser.inv Config.ref = true := by decide

/-- Every `k` from 0 to the eight bytes of `encode([00 41])`. -/
theorem witness_SerializerEmitsTheEncodedMessage :
    (asked State.reset (.op (.start [0x00#8, 0x41#8]) :: List.replicate 8 (.op .tick))).inputs =
      .op (.start [0x00#8, 0x41#8]) ::
        (List.replicate (encodeMessage Config.ref [0x00#8, 0x41#8]).length (.op .tick) ++ []) ∧
    State.reset.cfg.wf = true ∧ State.reset.encWalk = [] ∧ State.reset.ser.phase = .idle ∧
    [0x00#8, 0x41#8].length ≤ State.reset.cfg.encCap ∧ 0 ≤ (encodeMessage Config.ref [0x00#8, 0x41#8]).length ∧
    8 ≤ (encodeMessage Config.ref [0x00#8, 0x41#8]).length := by decide

theorem witness_EncodeCallEmitsTheEncodedMessage :
    (asked State.reset [.op (.encode [0x00#8])]).inputs = .op (.encode [0x00#8]) :: [] ∧
    State.reset.cfg.wf = true ∧ State.reset.encWalk = [] := by decide

/-- For EncodedLengthCountsTheStuffedBytes and EncodedMessageHasNoZeroByte. -/
theorem witness_EncodedLengthCountsTheStuffedBytes :
    Config.ref.wf = true ∧ (List.replicate 64 0xAA#8).length = 64 ∧
    0x44#8 ∈ encodeMessage Config.ref [0x00#8] := by decide

/-- A payload of exactly the capacity, the empty one, and a proper part of the message. -/
theorem witness_DecodeInvertsEncode :
    (at4 .idle false []).cfg.wf = true ∧ (at4 .idle false []).dec = Decoder.reset ∧ full.length ≤ small.cap ∧
    ([] : Bytes).length ≤ small.cap ∧ 3 < (encodeMessage small []).length ∧
    encodeMessage small full = encodeMessage small full := by decide

theorem witness_DecoderResynchronisesAfterGarbage :
    (at4 .idle false []).cfg.wf = true ∧ (at4 .idle false []).dec = Decoder.reset ∧
    (∀ b ∈ [0x00#8, 0x42#8, 0x43#8, 0xFF#8, 0x44#8], b ≠ small.escape) ∧ full.length ≤ small.cap := by decide

/-- The hypotheses are those of the last two, with any byte. -/
theorem witness_NestedBeginIsRejectedAndTheNextFrameDecoded :
    State.reset.cfg.wf = true ∧ State.reset.dec = Decoder.reset ∧ [0x07#8].length ≤ State.reset.cfg.cap := by decide

theorem witness_IdleIgnoresBytesOtherThanEscape :
    State.reset.cfg.wf = true ∧ State.reset.dec = Decoder.reset ∧
    ∀ b ∈ [0x00#8, 0x42#8, 0x43#8, 0x44#8, 0x45#8, 0xFF#8, 0x61#8], b ≠ State.reset.cfg.escape := by decide

/-- For FrameDeliversTheValuesOfItsItems and UnterminatedFrameCostsTheNextFrame: more items than cells, a raw 0x00. -/
theorem witness_FrameDeliversTheValuesOfItsItems :
    (at4 .idle false []).cfg.wf = true ∧ (at4 .idle false []).dec = Decoder.reset ∧
    ∀ x ∈ [Item.raw 0x00#8, .literalZero, .literalEscape, .raw 0x42#8, .raw 0xFF#8], itemWf small x = true := by decide

/-- For LongPayloadsAreTruncatedWithoutError and StrayEscapeCostsTheNextFrame, which take any payload. -/
theorem witness_LongPayloadsAreTruncatedWithoutError :
    (at4 .idle false []).cfg.wf = true ∧ (at4 .idle false []).dec = Decoder.reset := by decide

/-- A delivered frame, and an error. -/
theorem witness_EveryEventReArmsTheDecoder :
    step (asked (at4 .escaped true full) [.byte 0x43#8]) = .next (gives (at4 .idle false []) (.frameReady full) false) ∧
    step (asked (at4 .escaped true full) [.byte 0x42#8]) =
      .next (gives (at4 .idle false []) (.protocolError .unexpectedBegin) false) ∧
    (gives (at4 .idle false []) (.frameReady full) false).event ≠ .none ∧
    (gives (at4 .idle false []) (.protocolError .unexpectedBegin) false).event ≠ .none :=
  ⟨rfl, rfl, by decide, by decide⟩

theorem witness_ConcatenatedFramesAreAllDecoded :
    State.reset.cfg.wf = true ∧ State.reset.dec = Decoder.reset ∧
    (∀ b ∈ [0x0D#8, 0x0A#8], b ≠ State.reset.cfg.escape) ∧
    ∀ x ∈ [([0x01#8], [0xFF#8, 0x00#8]), ([0x02#8, 0x41#8], [0x43#8])], ∀ b ∈ x.2, b ≠ State.reset.cfg.escape := by decide

theorem witness_DeliveredPayloadsFitTheBuffer :
    step (asked (at4 .escaped true full) [.byte 0x43#8]) = .next (gives (at4 .idle false []) (.frameReady full) false) ∧
    (gives (at4 .idle false []) (.frameReady full) false).event = .frameReady full := ⟨rfl, rfl⟩

/-- The ticks of P6, up to its second byte. -/
theorem witness_PacingDoesNotMatter :
    (asked State.reset [.op .noByte, .byte 0x41#8, .op .noByte, .op .noByte, .byte 0x42#8]).inputs =
      [none, some 0x41#8, none, none, some 0x42#8].map pollInput ++ [] ∧
    State.reset.cfg.wf = true ∧ State.reset.encWalk = [] := by decide

/-- From each mode, with `ESCAPE` or 0x00 as the byte that is no marker. -/
theorem witness_EveryByteIsAcceptedAndTwoBytesRearm :
    small.wf = true ∧ (at4 .inFrame true full).dec.inv small = true ∧ (at4 .escaped true full).dec.inv small = true ∧
    (at4 .idle false []).dec.inv small = true ∧ cls2 small 0x41#8 = .other ∧ cls2 small 0x00#8 = .other := by decide

/-- Every event, and none. -/
theorem witness_EventsHaveTheCausesTheSpecNames :
    feed (at4 .escaped true full) 0x42#8 = .next (gives (at4 .idle false []) (.protocolError .unexpectedBegin) false) ∧
    feed (at4 .escaped false []) 0x43#8 = .next (gives (at4 .idle false []) (.protocolError .unexpectedEnd) false) ∧
    feed (at4 .escaped false []) 0x00#8 =
      .next (gives (at4 .idle false []) (.protocolError .unknownControlSequence) false) ∧
    feed (at4 .escaped false []) 0x45#8 =
      .next (gives (at4 .idle false []) (.protocolError .literalOutsideFrame) false) ∧
    feed (at4 .escaped true full) 0x43#8 = .next (gives (at4 .idle false []) (.frameReady full) false) ∧
    feed (at4 .inFrame true full) 0x05#8 = .next (gives (at4 .inFrame true full) .none true) :=
  ⟨rfl, rfl, rfl, rfl, rfl, rfl⟩

/-- The strobe 1 and 0, at the boundary. -/
theorem witness_OverflowDropsTheByteAndContinues :
    exec (.dFrameData 0x05#8) (at4 .inFrame true full) = .next (gives (at4 .inFrame true full) .none true) ∧
    exec (.dFrameData 0x04#8) (at4 .inFrame true (full.take 3)) = .next (gives (at4 .inFrame true full) .none false) :=
  ⟨rfl, rfl⟩

theorem witness_EveryProtocolErrorRecoversTheSameWay :
    exec .dEscBeginNested (at4 .escaped true full) =
      .next (gives (at4 .idle false []) (.protocolError .unexpectedBegin) false) ∧
    (gives (at4 .idle false []) (.protocolError .unexpectedBegin) false).event = .protocolError .unexpectedBegin :=
  ⟨rfl, rfl⟩

/-- Set, cleared by completion, cleared by an error, and untouched. -/
theorem witness_FrameOpenChangesOnlyWhereTheSpecSays :
    exec .dEscBegin (at4 .escaped false []) = .next (at4 .inFrame true []) ∧
    exec .dEscEnd (at4 .escaped true full) = .next (gives (at4 .idle false []) (.frameReady full) false) ∧
    exec (.dEscUnknown 0x41#8) (at4 .escaped true full) =
      .next (gives (at4 .idle false []) (.protocolError .unknownControlSequence) false) ∧
    exec (.dEscUnknown 0x41#8) (at4 .escaped false []) =
      .next (gives (at4 .idle false []) (.protocolError .unknownControlSequence) false) := ⟨rfl, rfl, rfl, rfl⟩

/-- In the middle of a frame and of a walk. -/
theorem witness_EveryStepKeepsTheInvariant :
    State.Inv { at4 .inFrame true full with encWalk := [.payloadByte 0x00#8, .payloadEnd] } ∧
    step { at4 .inFrame true full with encWalk := [.payloadByte 0x00#8, .payloadEnd] } =
      .next { at4 .inFrame true full with encWalk := [.payloadEnd], encOut := [0x41#8, 0x44#8] } :=
  ⟨by decide, rfl⟩

theorem witness_ResetStatesMeetTheInvariant : Config.ref.wf = true ∧ small.wf = true := by decide

/-- Two states that differ in everything but the configuration and the decoder. -/
theorem witness_DecoderStepIsAFunctionOfTheDecoder :
    (gives State.reset (.frameReady []) true).cfg = (serAt .preEsc [0x01#8] 0).cfg ∧
    (gives State.reset (.frameReady []) true).dec = (serAt .preEsc [0x01#8] 0).dec ∧
    feed (gives State.reset (.frameReady []) true) 0x41#8 = .next (at64 .escaped false []) := ⟨rfl, rfl, rfl⟩

/-- The four clauses, `start` and `tick` both. -/
theorem witness_UnitsAreIndependent :
    feed State.reset 0x41#8 = .next (at64 .escaped false []) ∧
    runRow (.enc .payloadEnd) State.reset = .next { State.reset with encOut := [0x41#8, 0x43#8] } ∧
    runOp (.encode []) State.reset = .next { State.reset with encWalk := [.payloadStart, .payloadEnd] } ∧
    runOp (.start []) State.reset = .next (serAt .preEsc [] 0) ∧
    runOp .tick (serAt .preEsc [] 0) = .next { serAt .preMark [] 0 with serOut := [0x41#8] } :=
  ⟨rfl, rfl, rfl, rfl, rfl⟩

theorem witness_PayloadContentsNeverInfluenceTransitions :
    (at4 .escaped true full).cfg = (at4 .escaped true full.reverse).cfg ∧
    (at4 .escaped true full).dec.payload.length = (at4 .escaped true full.reverse).dec.payload.length ∧
    feed (at4 .escaped true full) 0x43#8 = .next (gives (at4 .idle false []) (.frameReady full) false) := ⟨rfl, rfl, rfl⟩

/-- For NoStepChangesTheConfiguration and OutboundStreamsOnlyGrowAndCarryNoZero: a step that emits two bytes. -/
theorem witness_OutboundStreamsOnlyGrowAndCarryNoZero :
    step { State.reset with encWalk := [.payloadByte 0x00#8] } = .next { State.reset with encOut := [0x41#8, 0x44#8] } :=
  rfl

/-- An ill-formed configuration, and each way to violate R24. -/
theorem witness_StatesWithoutMeaningAreRefused :
    (State.resetWith { Config.ref with literalZero := 0x45#8 }).cfg.wf = false ∧
    (State.resetWith { Config.ref with cap := 0 }).cfg.wf = false ∧ small.wf = true ∧
    (at4 .idle true []).dec.inv small = false ∧ (at4 .inFrame false []).dec.inv small = false ∧
    (at4 .escaped false [0x01#8]).dec.inv small = false ∧ (at4 .inFrame true (0x00#8 :: full)).dec.inv small = false := by
  decide

/-- Each of the eight rows. -/
theorem witness_RowsThatStoreNothingKeepThePayload :
    exec (.dIdleSkip 0x42#8) State.reset = .next State.reset ∧
    exec .dIdleEsc State.reset = .next (at64 .escaped false []) ∧
    exec .dFrameEsc (at4 .inFrame true full) = .next (at4 .escaped true full) ∧
    exec .ePreamble State.reset = .next { State.reset with encOut := [0x41#8, 0x42#8] } ∧
    exec .eZero State.reset = .next { State.reset with encOut := [0x41#8, 0x44#8] } ∧
    exec .eEscape State.reset = .next { State.reset with encOut := [0x41#8, 0x45#8] } ∧
    exec (.eVerbatim 0x61#8) State.reset = .next { State.reset with encOut := [0x61#8] } ∧
    exec .ePostamble State.reset = .next { State.reset with encOut := [0x41#8, 0x43#8] } :=
  ⟨rfl, rfl, rfl, rfl, rfl, rfl, rfl, rfl⟩

/-- Each of the three rows, with a cell to go to, and one without. -/
theorem witness_AppendingRowsStoreOneByte :
    exec .dEscLitesc (at4 .escaped true []) = .next (at4 .inFrame true [0x41#8]) ∧
    exec .dEscLitzero (at4 .escaped true (full.take 3)) = .next (at4 .inFrame true (full.take 3 ++ [0x00#8])) ∧
    exec (.dFrameData 0x43#8) (at4 .inFrame true []) = .next (at4 .inFrame true [0x43#8]) ∧
    exec (.dFrameData 0x43#8) (at4 .inFrame true full) = .next (gives (at4 .inFrame true full) .none true) ∧
    appendAddr small (at4 .escaped true (full.take 3)).dec = some 3 ∧
    appendAddr small (at4 .inFrame true full).dec ≠ some 4 := ⟨rfl, rfl, rfl, rfl, rfl, by decide⟩

/-- Each of the seven rows. -/
theorem witness_OpeningAndClosingRowsClearThePayload :
    exec .dEscBegin (at4 .escaped false []) = .next (at4 .inFrame true []) ∧
    exec .dEscBeginNested (at4 .escaped true full) =
      .next (gives (at4 .idle false []) (.protocolError .unexpectedBegin) false) ∧
    exec .dEscEnd (at4 .escaped true full) = .next (gives (at4 .idle false []) (.frameReady full) false) ∧
    exec .dEscEndStray (at4 .escaped false []) =
      .next (gives (at4 .idle false []) (.protocolError .unexpectedEnd) false) ∧
    exec .dEscLitescStray (at4 .escaped false []) =
      .next (gives (at4 .idle false []) (.protocolError .literalOutsideFrame) false) ∧
    exec .dEscLitzeroStray (at4 .escaped false []) =
      .next (gives (at4 .idle false []) (.protocolError .literalOutsideFrame) false) ∧
    exec (.dEscUnknown 0x5A#8) (at4 .escaped true full) =
      .next (gives (at4 .idle false []) (.protocolError .unknownControlSequence) false) :=
  ⟨rfl, rfl, rfl, rfl, rfl, rfl, rfl⟩

end Sys2Proof.Tests
end

section
/-! R66: a decoder step looks at the payload's length and at none of its bytes. Two states that differ in the payload's
contents alone accept the same rows, and every shared operation keeps them so related. -/

namespace Sys2Proof.Machine

/-- Two states that no rule of the decoder tells apart (R66): their payloads agree in length and may differ in bytes. -/
structure SameButPayload (s₁ s₂ : State) : Prop where
  cfg : s₁.cfg = s₂.cfg
  mode : s₁.dec.mode = s₂.dec.mode
  frameOpen : s₁.dec.frameOpen = s₂.dec.frameOpen
  length : s₁.dec.payload.length = s₂.dec.payload.length

/-- The answers `t₁` to `s₁` and `t₂` to `s₂` are the same but for payload bytes: those still in the buffer, and those
of a payload delivered, which is each state's own. -/
structure SameAnswer (s₁ s₂ t₁ t₂ : State) : Prop where
  state : SameButPayload t₁ t₂
  ovf : t₁.ovf = t₂.ovf
  event : t₁.event = t₂.event ∨ t₁.event = .frameReady s₁.dec.payload ∧ t₂.event = .frameReady s₂.dec.payload

namespace SameButPayload

variable {s₁ s₂ : State}

/-- R24 bounds the payload's length and says when the payload is empty; neither is about its bytes. -/
theorem inv_iff (h : SameButPayload s₁ s₂) : s₁.dec.inv s₁.cfg = true ↔ s₂.dec.inv s₂.cfg = true := by
  simp only [Decoder.inv_iff, ← List.length_eq_zero_iff, h.cfg, h.mode, h.frameOpen, h.length]

theorem setMode_same (m : Mode) (h : SameButPayload s₁ s₂) : SameButPayload (setMode m s₁) (setMode m s₂) :=
  ⟨h.cfg, rfl, h.frameOpen, h.length⟩

/-- Both decoders replaced by one and the same. -/
theorem setDec_same (d : Decoder) (h : SameButPayload s₁ s₂) :
    SameButPayload { s₁ with dec := d } { s₂ with dec := d } :=
  ⟨h.cfg, rfl, rfl, rfl⟩

theorem emit_sameAnswer {t₁ t₂ : State} (e : Event) (o : Bool) (h : SameButPayload t₁ t₂) :
    SameAnswer s₁ s₂ (emit e o t₁) (emit e o t₂) :=
  ⟨⟨h.cfg, h.mode, h.frameOpen, h.length⟩, rfl, .inl rfl⟩

theorem outBytes_sameAnswer (bs₁ bs₂ : Bytes) (h : SameButPayload s₁ s₂) :
    SameAnswer s₁ s₂ (outBytes bs₁ s₁) (outBytes bs₂ s₂) :=
  ⟨⟨h.cfg, h.mode, h.frameOpen, h.length⟩, rfl, .inl rfl⟩

/-- R201: a recovery clears the payload, whatever was in it. -/
theorem raise_sameAnswer (r : Reason) (h : SameButPayload s₁ s₂) : SameAnswer s₁ s₂ (raise r s₁) (raise r s₂) :=
  (h.setDec_same Decoder.reset).emit_sameAnswer _ _

/-- R106: each state delivers its own payload, and both decoders are then as after reset. -/
theorem deliver_sameAnswer (h : SameButPayload s₁ s₂) :
    SameAnswer s₁ s₂ (emit (.frameReady s₁.dec.payload) false { s₁ with dec := Decoder.reset })
      (emit (.frameReady s₂.dec.payload) false { s₂ with dec := Decoder.reset }) :=
  ⟨⟨h.cfg, rfl, rfl, rfl⟩, rfl, .inr ⟨rfl, rfl⟩⟩

/-- R52: whether the byte has a cell to go to is a question about the length. -/
theorem appendAndStay_sameAnswer (v : Byte) (h : SameButPayload s₁ s₂) :
    SameAnswer s₁ s₂ (appendAndStay v s₁) (appendAndStay v s₂) := by
  have hlen : (payAppend s₁.cfg s₁.dec v).payload.length = (payAppend s₂.cfg s₂.dec v).payload.length := by
    simp only [payAppend_payload, apply_ite List.length, List.length_append, h.cfg, h.length]
  have hovf : ovfOnAppend s₁.cfg s₁.dec = ovfOnAppend s₂.cfg s₂.dec := by
    rw [ovfOnAppend_eq, ovfOnAppend_eq, h.cfg, h.length]
  exact ⟨⟨h.cfg, rfl, by simp [h.frameOpen], hlen⟩, hovf, .inl rfl⟩

/-- No row's effect depends on the payload's bytes, but for the delivery of R106. -/
theorem rowEffect_sameAnswer (i : Instr) (h : SameButPayload s₁ s₂) :
    SameAnswer s₁ s₂ (rowEffect i s₁) (rowEffect i s₂) := by
  cases i
  case dIdleSkip => exact h.emit_sameAnswer _ _
  case dIdleEsc | dFrameEsc => exact (h.setMode_same _).emit_sameAnswer _ _
  case dEscBegin => exact (h.setDec_same _).emit_sameAnswer _ _
  case dEscEnd => exact h.deliver_sameAnswer
  case dEscBeginNested | dEscEndStray | dEscLitescStray | dEscLitzeroStray | dEscUnknown =>
    exact h.raise_sameAnswer _
  case dEscLitesc => simpa only [rowEffect, h.cfg] using h.appendAndStay_sameAnswer s₂.cfg.escape
  case dEscLitzero | dFrameData => exact h.appendAndStay_sameAnswer _
  case ePreamble | eZero | eEscape | eVerbatim | ePostamble => exact h.outBytes_sameAnswer _ _

/-- A decoder row that runs in one of the states runs in the other, as it is selected by mode and flag. -/
theorem exec_decoderRow_next {i : Instr} {t₁ : State} (hr : i.isDecoderRow = true) (h : SameButPayload s₁ s₂)
    (ht : exec i s₁ = .next t₁) : t₁ = rowEffect i s₁ ∧ exec i s₂ = .next (rowEffect i s₂) := by
  obtain ⟨hc, -, rfl, hsel⟩ := exec_next ht
  obtain ⟨hi, hs⟩ := hsel hr
  rw [h.cfg, h.mode, h.frameOpen] at hs
  exact ⟨rfl, exec_decoderRow hr (h.cfg ▸ hc) (h.inv_iff.mp hi) hs⟩

/-- R66: a byte that one of the states answers, the other answers too, and the same but for payload bytes. -/
theorem feed_sameAnswer {t₁ : State} {b : Byte} (h : SameButPayload s₁ s₂) (ht : feed s₁ b = .next t₁) :
    ∃ t₂, feed s₂ b = .next t₂ ∧ SameAnswer s₁ s₂ t₁ t₂ := by
  obtain ⟨i, hd, he⟩ := runRow_next ht
  obtain ⟨rfl, he₂⟩ := h.exec_decoderRow_next (decode_rx_isDecoderRow hd) he
  rw [h.cfg, h.mode, h.frameOpen] at hd
  exact ⟨_, (runRow_of_decode hd).trans he₂, h.rowEffect_sameAnswer i⟩

end SameButPayload

/-- Settles O53, by the row the byte selects: it is the same in both states, and so is its effect up to payload bytes. -/
theorem payloadContentsNeverInfluenceTransitions : Obligations.PayloadContentsNeverInfluenceTransitions := by
  intro s₁ s₂ t₁ b hcfg hmode hopen hlen ht
  obtain ⟨t₂, ht₂, hstate, hovf, hevent⟩ := SameButPayload.feed_sameAnswer ⟨hcfg, hmode, hopen, hlen⟩ ht
  exact ⟨t₂, ht₂, hstate.mode.symm, hstate.frameOpen.symm, hstate.length.symm, hovf.symm, hevent.imp_left Eq.symm⟩

end Sys2Proof.Machine
end

section
/-! The rows of the decoder (40_decoder.md R102 to R114). A byte that selects a row in a reachable state runs it there, so
each row's statement is the byte's class and the row's effect in that state. -/

namespace Sys2Proof

variable {c : Config}

theorem decodeIdle_selected (c : Config) (b : Byte) : (decodeIdle c b).selectedBy c .idle false = true := by
  by_cases hb : b = c.escape
  · rw [decodeIdle, hb, cls1_escape]
    rfl
  · rw [decodeIdle, cls1_raw hb]
    simpa [Instr.selectedBy, Instr.wf, Instr.rowMode, Instr.rowOpen] using hb

theorem decodeInFrame_selected (c : Config) (b : Byte) : (decodeInFrame c b).selectedBy c .inFrame true = true := by
  by_cases hb : b = c.escape
  · rw [decodeInFrame, hb, cls1_escape]
    rfl
  · rw [decodeInFrame, cls1_raw hb]
    simpa [Instr.selectedBy, Instr.wf, Instr.rowMode, Instr.rowOpen] using hb

theorem decodeEscaped_selected (c : Config) (fo : Bool) (b : Byte) :
    (decodeEscaped c fo b).selectedBy c .escaped fo = true := by
  cases hk : cls2 c b with
  | other =>
    have hb := (cls2_other_iff c b).mp hk
    simpa [decodeEscaped, hk, Instr.selectedBy, Instr.wf, Instr.rowMode, Instr.rowOpen, and_assoc] using hb
  | _ => cases fo <;> simp only [decodeEscaped, hk] <;> rfl

/-- R85: the row a fed byte selects is selected by the mode and the flag it was read in. -/
theorem decode_rx_selected {m : Mode} {fo : Bool} {b : Byte} {i : Instr} (h : decode c m fo (.rx b) = .ok i) :
    i.selectedBy c m fo = true := by
  unfold decode at h
  split at h
  · cases m with
    | idle =>
      cases fo <;> cases h
      exact decodeIdle_selected c b
    | escaped =>
      cases h
      exact decodeEscaped_selected c fo b
    | inFrame =>
      cases fo <;> cases h
      exact decodeInFrame_selected c b
  · cases h

theorem decode_idle_escape (h : c.wf = true) : decode c .idle false (.rx c.escape) = .ok .dIdleEsc := by
  rw [decode_of_wf_idle h, decodeIdle, cls1_escape]

theorem decode_idle_raw (h : c.wf = true) {b : Byte} (hb : b ≠ c.escape) :
    decode c .idle false (.rx b) = .ok (.dIdleSkip b) := by
  rw [decode_of_wf_idle h, decodeIdle, cls1_raw hb]

theorem decode_inFrame_escape (h : c.wf = true) : decode c .inFrame true (.rx c.escape) = .ok .dFrameEsc := by
  rw [decode_of_wf_inFrame h, decodeInFrame, cls1_escape]

theorem decode_inFrame_raw (h : c.wf = true) {b : Byte} (hb : b ≠ c.escape) :
    decode c .inFrame true (.rx b) = .ok (.dFrameData b) := by
  rw [decode_of_wf_inFrame h, decodeInFrame, cls1_raw hb]

theorem decode_escaped_frameBegin (h : c.wf = true) (fo : Bool) : decode c .escaped fo (.rx c.frameBegin) =
    .ok (if fo then .dEscBeginNested else .dEscBegin) := by
  cases fo <;> simp [decode_of_wf_escaped h, decodeEscaped, cls2_frameBegin]

theorem decode_escaped_frameEnd (h : c.wf = true) (fo : Bool) : decode c .escaped fo (.rx c.frameEnd) =
    .ok (if fo then .dEscEnd else .dEscEndStray) := by
  cases fo <;> simp [decode_of_wf_escaped h, decodeEscaped, cls2_frameEnd h]

theorem decode_escaped_literalEscape (h : c.wf = true) (fo : Bool) : decode c .escaped fo (.rx c.literalEscape) =
    .ok (if fo then .dEscLitesc else .dEscLitescStray) := by
  cases fo <;> simp [decode_of_wf_escaped h, decodeEscaped, cls2_literalEscape h]

theorem decode_escaped_literalZero (h : c.wf = true) (fo : Bool) : decode c .escaped fo (.rx c.literalZero) =
    .ok (if fo then .dEscLitzero else .dEscLitzeroStray) := by
  cases fo <;> simp [decode_of_wf_escaped h, decodeEscaped, cls2_literalZero h]

theorem decode_escaped_other (h : c.wf = true) (fo : Bool) {b : Byte} (hb : cls2 c b = .other) :
    decode c .escaped fo (.rx b) = .ok (.dEscUnknown b) := by
  simp only [decode_of_wf_escaped h, decodeEscaped, hb]

end Sys2Proof

namespace Sys2Proof.Machine

variable {s t : State} {m : Mode} {fo : Bool} {b : Byte} {i : Instr}

theorem DecoderReady.wf (h : DecoderReady s m fo) : s.cfg.wf = true := h.1

/-- R24 (I4). -/
theorem DecoderReady.payload_nil (h : DecoderReady s m false) : s.dec.payload = [] := by
  obtain ⟨-, hinv, -, hopen⟩ := h
  obtain ⟨-, -, hclosed, -⟩ := (Decoder.inv_iff s.cfg s.dec).mp hinv
  exact hclosed hopen

/-- R24 (I5). -/
theorem DecoderReady.memory_wf (h : DecoderReady s m fo) : Memory.wf s.cfg s.dec.payload = true := by
  obtain ⟨-, hinv, -, -⟩ := h
  obtain ⟨-, -, -, hlen⟩ := (Decoder.inv_iff s.cfg s.dec).mp hinv
  exact decide_eq_true hlen

/-- R100: in a ready state the row that a byte selects has its effect. -/
theorem DecoderReady.selects_and_executes (h : DecoderReady s m fo) (hd : decode s.cfg m fo (.rx b) = .ok i)
    (ht : rowEffect i s = t) :
    decode s.cfg s.dec.mode s.dec.frameOpen (.rx b) = .ok i ∧ exec i s = .next t := by
  obtain ⟨hc, hinv, rfl, rfl⟩ := h
  exact ⟨hd, ht ▸ exec_decoderRow (decode_rx_isDecoderRow hd) hc hinv (decode_rx_selected hd)⟩

theorem DecoderReady.feed_eq (h : DecoderReady s m fo) (hd : decode s.cfg m fo (.rx b) = .ok i) :
    feed s b = .next (rowEffect i s) := by
  obtain ⟨hd, he⟩ := h.selects_and_executes hd rfl
  exact (runRow_of_decode hd).trans he

/-- R103, R113: an `ESCAPE` changes the mode and nothing else of the decoder. -/
theorem DecoderReady.emit_setMode (m' : Mode) (h : DecoderReady s m fo) : emit .none false (setMode m' s) =
    { s with dec := { mode := m', frameOpen := fo, payload := s.dec.payload }, event := .none, ovf := false } := by
  obtain ⟨-, -, -, rfl⟩ := h
  rfl

/-- R52: an append in a reachable state; the byte is dropped, and the strobe is 1, exactly at capacity. -/
theorem DecoderReady.appendAndStay_eq (v : Byte) (h : DecoderReady s m fo) : appendAndStay v s = { s with
    dec := { mode := .inFrame, frameOpen := fo,
             payload := if s.dec.payload.length < s.cfg.cap then s.dec.payload ++ [v] else s.dec.payload },
    event := .none, ovf := decide (s.dec.payload.length = s.cfg.cap) } := by
  rw [Machine.appendAndStay_eq, ← ovfOnAppend_eq, ovfOnAppend_of_wf h.memory_wf]
  obtain ⟨-, -, -, rfl⟩ := h
  rfl

/-- R201: a recovery leaves a state in which the rows of mode Idle execute. -/
theorem raise_decoderReady (r : Reason) (hc : s.cfg.wf = true) : DecoderReady (raise r s) .idle false :=
  ⟨hc, Decoder.reset_inv _, rfl, rfl⟩

/-- Settles O6: the byte is not `ESCAPE`, so it selects the default row of mode Idle. -/
theorem idleSkipDiscardsTheByte : Obligations.IdleSkipDiscardsTheByte := fun _ _ h hb =>
  h.selects_and_executes (decode_idle_raw h.wf hb) rfl

/-- Settles O7: only the mode changes; the frame was closed and so the payload already empty. -/
theorem idleEscapeEntersEscaped : Obligations.IdleEscapeEntersEscaped := by
  intro s h
  refine h.selects_and_executes (decode_idle_escape h.wf) ?_
  rw [rowEffect, h.emit_setMode, h.payload_nil]

/-- R104: no other row sets the flag, as a row keeps it or recovers. -/
theorem eq_dEscBegin_of_opens (hs : s.dec.frameOpen = false) (ht : (rowEffect i s).dec.frameOpen = true) :
    i = .dEscBegin := by
  have hkept : ∀ {d : Decoder}, d.frameOpen = s.dec.frameOpen → d.frameOpen ≠ true := by simp [hs]
  cases i
  case dEscBegin => rfl
  case dEscEnd | dEscBeginNested | dEscEndStray | dEscLitescStray | dEscLitzeroStray | dEscUnknown => cases ht
  case dEscLitesc | dEscLitzero | dFrameData => exact absurd ht (hkept (payAppend_frameOpen ..))
  case dIdleSkip | dIdleEsc | dFrameEsc | ePreamble | eZero | eEscape | eVerbatim | ePostamble =>
    exact absurd ht (hkept rfl)

/-- Settles O8, by the row's effect and, for the second part, by what every other row does to the flag. -/
theorem beginOpensAnEmptyFrame : Obligations.BeginOpensAnEmptyFrame := by
  refine ⟨fun s h => h.selects_and_executes (decode_escaped_frameBegin h.wf false) rfl, fun i s t he hs ht => ?_⟩
  obtain ⟨-, -, rfl, -⟩ := exec_next he
  exact eq_dEscBegin_of_opens hs ht

/-- Settles O9: the one recovery of R201. -/
theorem nestedBeginForceClosesTheFrame : Obligations.NestedBeginForceClosesTheFrame := fun _ h =>
  h.selects_and_executes (decode_escaped_frameBegin h.wf true) rfl

/-- R106: every other row outputs None or a protocol error. -/
theorem eq_dEscEnd_of_frameReady {p : Bytes} (h : (rowEffect i s).event = .frameReady p) : i = .dEscEnd := by
  cases i
  case dEscEnd => rfl
  all_goals cases h

/-- Settles O10, by the row's effect and, for the second part, by the event of every other row. -/
theorem endDeliversThePayloadAndCloses : Obligations.EndDeliversThePayloadAndCloses := by
  refine ⟨fun s h => h.selects_and_executes (decode_escaped_frameEnd h.wf true) rfl, fun i s t p he ht => ?_⟩
  obtain ⟨-, -, rfl, -⟩ := exec_next he
  exact eq_dEscEnd_of_frameReady ht

/-- Settles O11: the one recovery of R201. -/
theorem strayEndRaisesUnexpectedEnd : Obligations.StrayEndRaisesUnexpectedEnd := fun _ h =>
  h.selects_and_executes (decode_escaped_frameEnd h.wf false) rfl

/-- Settles O12, by what an append does in a reachable state. -/
theorem literalEscapeAppendsTheEscapeValue : Obligations.LiteralEscapeAppendsTheEscapeValue := fun s h =>
  h.selects_and_executes (decode_escaped_literalEscape h.wf true) (h.appendAndStay_eq s.cfg.escape)

/-- Settles O13, by what an append does in a reachable state. -/
theorem literalZeroAppendsZero : Obligations.LiteralZeroAppendsZero := fun _ h =>
  h.selects_and_executes (decode_escaped_literalZero h.wf true) (h.appendAndStay_eq 0x00#8)

/-- Settles O14: both rows are the one recovery of R201 with one reason. -/
theorem strayLiteralsRaiseLiteralOutsideFrame : Obligations.StrayLiteralsRaiseLiteralOutsideFrame := by
  intro s h
  obtain ⟨hdEsc, heEsc⟩ := h.selects_and_executes (decode_escaped_literalEscape h.wf false) rfl
  obtain ⟨hdZero, heZero⟩ := h.selects_and_executes (decode_escaped_literalZero h.wf false) rfl
  exact ⟨hdEsc, hdZero, heEsc, heZero⟩

/-- R112, corner case: in `ESC ESC BEGIN` the second `ESCAPE` recovers, and the `FRAME_BEGIN` is then read in Idle, where
R102 discards it. -/
theorem run_escape_frameBegin (h : DecoderReady s .escaped fo) :
    run s [s.cfg.escape, s.cfg.frameBegin] =
      .next { state := emit .none false (raise .unknownControlSequence s),
              events := [.protocolError .unknownControlSequence], ovfSteps := 0 } := by
  have hescape : feed s s.cfg.escape = .next (raise .unknownControlSequence s) :=
    h.feed_eq (decode_escaped_other h.wf fo (cls2_escape h.wf))
  have hne : s.cfg.frameBegin ≠ s.cfg.escape := (Config.distinct_of_wf h.wf).1.symm
  have hbegin : feed (raise .unknownControlSequence s) s.cfg.frameBegin =
      .next (emit .none false (raise .unknownControlSequence s)) :=
    (raise_decoderReady _ h.wf).feed_eq (decode_idle_raw h.wf hne)
  rw [run_cons _ hescape, run_cons _ hbegin]
  rfl

/-- Settles O15: the one recovery of R201, whatever the flag, and the corner case after it. -/
theorem unknownMarkerForceCloses : Obligations.UnknownMarkerForceCloses := by
  refine ⟨fun s fo b h hBegin hEnd hEsc hZero => ?_, fun s fo h => ⟨_, run_escape_frameBegin h, rfl⟩⟩
  have hother := (cls2_other_iff s.cfg b).mpr ⟨hBegin, hEnd, hEsc, hZero⟩
  exact h.selects_and_executes (decode_escaped_other h.wf fo hother) rfl

/-- An append that put a byte at the end put its operand there. -/
theorem eq_of_payAppend_payload {c : Config} {d : Decoder} {v w : Byte}
    (h : (payAppend c d v).payload = d.payload ++ [w]) : v = w := by
  rw [payAppend_payload] at h
  split at h
  · simpa using h
  · simp at h

/-- R113: among the rows with a well-formed operand only D.ESC.LITESC appends the value of `ESCAPE`. -/
theorem eq_dEscLitesc_of_appends_escape (hc : s.cfg.wf = true) (hi : i.wf s.cfg = true)
    (h : (rowEffect i s).dec.payload = s.dec.payload ++ [s.cfg.escape]) : i = .dEscLitesc := by
  have hkept : s.dec.payload ≠ s.dec.payload ++ [s.cfg.escape] := by simp
  have hcleared : [] ≠ s.dec.payload ++ [s.cfg.escape] := by simp
  cases i
  case dEscLitesc => rfl
  case dEscLitzero =>
    have hzero : 0x00#8 = s.cfg.escape := eq_of_payAppend_payload h
    exact absurd hzero.symm (Config.nonzero_of_wf hc).1
  case dFrameData b =>
    have hb : b = s.cfg.escape := eq_of_payAppend_payload h
    simp [Instr.wf, hb] at hi
  case dEscBegin | dEscBeginNested | dEscEnd | dEscEndStray | dEscLitescStray | dEscLitzeroStray | dEscUnknown =>
    exact absurd h hcleared
  case dIdleSkip | dIdleEsc | dFrameEsc | ePreamble | eZero | eEscape | eVerbatim | ePostamble =>
    exact absurd h hkept

/-- Settles O16, by the row's effect and, for the second part, by what every other row does to the payload. -/
theorem frameEscapeKeepsTheFrameOpen : Obligations.FrameEscapeKeepsTheFrameOpen := by
  refine ⟨fun s h => h.selects_and_executes (decode_inFrame_escape h.wf) (h.emit_setMode .escaped),
    fun i s t he ht => ?_⟩
  obtain ⟨hc, hi, rfl, -⟩ := exec_next he
  exact eq_dEscLitesc_of_appends_escape hc hi ht

/-- Settles O17, by what an append does in a reachable state. -/
theorem frameDataAppendsTheByte : Obligations.FrameDataAppendsTheByte := fun _ b h hb =>
  h.selects_and_executes (decode_inFrame_raw h.wf hb) (h.appendAndStay_eq b)

end Sys2Proof.Machine
end

section
/-! R101: a tick whose poll returned no byte takes its request from the queue and leaves all else, with the outputs at
None and 0. -/

namespace Sys2Proof.Machine

theorem step_noByte {s : State} {rest : List Input} (hc : s.cfg.wf = true) (hw : s.encWalk = [])
    (hi : s.inputs = .op .noByte :: rest) :
    step s = .next { s with inputs := rest, event := .none, ovf := false } := by
  rw [step_op hw hi, runOp, if_pos hc]
  rfl

/-- Settles O22, by induction on the number of ticks: what one of them leaves is what the rest of them start from. -/
theorem ticksWithoutAByteChangeNothing : Obligations.TicksWithoutAByteChangeNothing := by
  intro n
  induction n with
  | zero =>
    intro s rest hc hw hi
    exact runSteps_succ 0 (step_noByte hc hw hi)
  | succ n ih =>
    intro s rest hc hw hi
    rw [runSteps_succ (n + 1) (step_noByte hc hw hi)]
    exact ih _ rest hc hw rfl

end Sys2Proof.Machine
end

section
/-! The rows of the encoder (41_encoder.md R141 to R145). An emission row reads its operand and the configuration only,
so each statement is which byte selects the row and the row's effect. -/

namespace Sys2Proof

variable {c : Config}

/-- R141. -/
theorem decode_enc_zero (h : c.wf = true) (m : Mode) (fo : Bool) :
    decode c m fo (.enc (.payloadByte 0x00#8)) = .ok .eZero :=
  decode_of_wf_enc h m fo _

/-- R142, which R146 tests after R141: `ESCAPE` is not 0x00. -/
theorem decode_enc_escape (h : c.wf = true) (m : Mode) (fo : Bool) :
    decode c m fo (.enc (.payloadByte c.escape)) = .ok .eEscape := by
  obtain ⟨hesc, -⟩ := Config.nonzero_of_wf h
  rw [decode_of_wf_enc h, decodeTok, if_neg hesc, if_pos rfl]

/-- R143. -/
theorem decode_enc_verbatim (h : c.wf = true) (m : Mode) (fo : Bool) {v : Byte} (h0 : v ≠ 0x00#8)
    (he : v ≠ c.escape) : decode c m fo (.enc (.payloadByte v)) = .ok (.eVerbatim v) := by
  rw [decode_of_wf_enc h, decodeTok, if_neg h0, if_neg he]

theorem Instr.eVerbatim_wf {v : Byte} (h0 : v ≠ 0x00#8) (he : v ≠ c.escape) : (Instr.eVerbatim v).wf c = true := by
  simp [Instr.wf, h0, he]

end Sys2Proof

namespace Sys2Proof.Machine

/-- Settles O18: the two rows have no operand, and the function puts the same delimiters around the stuffed bytes. -/
theorem preambleAndPostambleEmitTheDelimiters : Obligations.PreambleAndPostambleEmitTheDelimiters := by
  constructor
  · intro s m fo hc
    exact ⟨decode_of_wf_enc hc m fo _, decode_of_wf_enc hc m fo _, exec_encoderRow rfl hc rfl,
      exec_encoderRow rfl hc rfl⟩
  · exact fun c p => ⟨rfl, rfl⟩

/-- Settles O19, by the order of tests of R146 and the effect of the two rows. -/
theorem zeroAndEscapeAreStuffed : Obligations.ZeroAndEscapeAreStuffed := fun _ m fo hc =>
  ⟨decode_enc_zero hc m fo, decode_enc_escape hc m fo, exec_encoderRow rfl hc rfl, exec_encoderRow rfl hc rfl⟩

/-- Settles O20: the byte fails both tests of R146, which makes it a well-formed operand of the default row. -/
theorem otherPayloadBytesAreEmittedVerbatim : Obligations.OtherPayloadBytesAreEmittedVerbatim :=
  fun _ m fo _ hc h0 he =>
    ⟨decode_enc_verbatim hc m fo h0 he, exec_encoderRow rfl hc (Instr.eVerbatim_wf h0 he)⟩

end Sys2Proof.Machine
end

section
/-! The serializer (41_encoder.md R150 to R157): what `start` answers, what each phase emits, and that a tick in a state
of R28's invariants performs what its phase emits. -/

namespace Sys2Proof.Machine

variable {c : Config} {s : State} {z z' : Serializer} {p : Bytes} {b v : Byte}

theorem runOp_start (hc : s.cfg.wf = true) (p : Bytes) : runOp (.start p) s = serStart p s := if_pos hc

theorem runOp_tick (hc : s.cfg.wf = true) : runOp .tick s = serTick s := if_pos hc

theorem serStart_of_fits (hz : s.ser.phase = .idle) (hp : p.length ≤ s.cfg.encCap) : serStart p s =
    .next { s with ser := { phase := .preEsc, buf := p, idx := 0 }, event := .none, ovf := false } := by
  rw [serStart, if_neg (not_not_intro hz), if_neg (Nat.not_lt.mpr hp)]
  rfl

theorem serStart_of_busy (hz : s.ser.phase ≠ .idle) : serStart p s = .refused .startWhileBusy := if_pos hz

theorem serStart_of_tooLong (hz : s.ser.phase = .idle) (hp : s.cfg.encCap < p.length) :
    serStart p s = .refused .startTooLong := by
  rw [serStart, if_neg (not_not_intro hz), if_pos hp]

theorem serEmit_preEsc (hz : z.phase = .preEsc) : serEmit c z = some ({ z with phase := .preMark }, c.escape) := by
  simp only [serEmit, hz]

theorem serEmit_preMark (hz : z.phase = .preMark) : serEmit c z =
    some ({ z with phase := if 0 < z.buf.length then .body else .postEsc }, c.frameBegin) := by
  simp only [serEmit, hz]

theorem serEmit_body (hz : z.phase = .body) (hv : z.buf[z.idx]? = some v) :
    serEmit c z = some (serBody c z v) := by
  simp only [serEmit, hz, hv, Option.map_some]

/-- R154, a byte that must be stuffed. -/
theorem serEmit_body_stuffed (hz : z.phase = .body) (hv : z.buf[z.idx]? = some v) (hs : v = 0x00#8 ∨ v = c.escape) :
    serEmit c z = some ({ z with phase := .bodyMark }, c.escape) := by
  rw [serEmit_body hz hv, serBody, if_pos hs]

/-- R154, any other byte. -/
theorem serEmit_body_raw (hz : z.phase = .body) (hv : z.buf[z.idx]? = some v) (h0 : v ≠ 0x00#8)
    (he : v ≠ c.escape) : serEmit c z = some (serAdvance z, v) := by
  rw [serEmit_body hz hv, serBody, if_neg (not_or_intro h0 he)]

theorem serEmit_bodyMark (hz : z.phase = .bodyMark) (hv : z.buf[z.idx]? = some v) :
    serEmit c z = some (serBodyMark c z v) := by
  simp only [serEmit, hz, hv, Option.map_some]

theorem serEmit_postEsc (hz : z.phase = .postEsc) : serEmit c z = some ({ z with phase := .postMark }, c.escape) := by
  simp only [serEmit, hz]

theorem serEmit_postMark (hz : z.phase = .postMark) : serEmit c z = some ({ z with phase := .idle }, c.frameEnd) := by
  simp only [serEmit, hz]

/-- R151: E_IDLE emits nothing. -/
theorem phase_ne_idle_of_serEmit (h : serEmit c z = some (z', b)) : z.phase ≠ .idle := by
  intro hz
  simp only [serEmit, hz, reduceCtorEq] at h

theorem serTick_of_idle (hz : s.ser.phase = .idle) : serTick s = .next { s with event := .none, ovf := false } :=
  if_pos hz

/-- R152 to R157: under R28's invariants a tick performs what the phase emits. -/
theorem serTick_of_serEmit (hi : s.ser.inv s.cfg = true) (he : serEmit s.cfg s.ser = some (z', b)) : serTick s =
    .next { s with ser := z', serOut := s.serOut ++ [b], event := .none, ovf := false } := by
  rw [serTick, if_neg (phase_ne_idle_of_serEmit he), if_pos hi, he]
  rfl

theorem runOp_tick_of_serEmit (hc : s.cfg.wf = true) (hi : s.ser.inv s.cfg = true)
    (he : serEmit s.cfg s.ser = some (z', b)) : runOp .tick s =
    .next { s with ser := z', serOut := s.serOut ++ [b], event := .none, ovf := false } :=
  (runOp_tick hc).trans (serTick_of_serEmit hi he)

/-- Settles O25, by the three answers of `start`. -/
theorem startLoadsThePayloadOrIsRefused : Obligations.StartLoadsThePayloadOrIsRefused := by
  intro s p hc
  rw [runOp_start hc]
  exact ⟨serStart_of_fits, serStart_of_busy, serStart_of_tooLong⟩

/-- Settles O26, phase by phase: each tick performs what its phase emits, and E_IDLE emits nothing. -/
theorem tickAroundTheBody : Obligations.TickAroundTheBody := fun _ hc =>
  ⟨fun hz => (runOp_tick hc).trans (serTick_of_idle hz),
   fun hz hi => runOp_tick_of_serEmit hc hi (serEmit_preEsc hz),
   fun hz hi => runOp_tick_of_serEmit hc hi (serEmit_preMark hz),
   fun hz hi => runOp_tick_of_serEmit hc hi (serEmit_postEsc hz),
   fun hz hi => runOp_tick_of_serEmit hc hi (serEmit_postMark hz)⟩

/-- Settles O27: the byte at the index decides what E_BODY emits, and in E_BODY_MARK which marker. -/
theorem tickInTheBody : Obligations.TickInTheBody := fun _ _ hc hi hv =>
  ⟨fun hz hs => runOp_tick_of_serEmit hc hi (serEmit_body_stuffed hz hv hs),
   fun hz h0 he => runOp_tick_of_serEmit hc hi (serEmit_body_raw hz hv h0 he),
   fun hz => runOp_tick_of_serEmit hc hi (serEmit_bodyMark hz hv)⟩

end Sys2Proof.Machine
end

section
/-! What a stretch of the inbound stream does to the decoder (42_laws.md): the relation `Parses`, how stretches compose,
and the stretch of one row. -/

namespace Sys2Proof.Machine

/-- From every state with configuration `c` and decoder `d`, the bytes `w` lead to decoder `d'` with events `es` and `n`
`ovf` steps, and leave all that is neither the decoder's nor an output as it was. -/
def Parses (c : Config) (d : Decoder) (w : Bytes) (d' : Decoder) (es : List Event) (n : Nat) : Prop :=
  ∀ s : State, s.cfg = c → s.dec = d → ∃ t : State,
    run s w = .next { state := t, events := es, ovfSteps := n } ∧ withoutOutputs t = withoutOutputs { s with dec := d' }

variable {c : Config} {d d₁ d₂ : Decoder} {u w : Bytes} {es es₁ es₂ : List Event} {n n₁ n₂ : Nat} {s t : State}
  {b : Byte} {i : Instr} {e : Event} {o : Bool}

theorem Parses.nil (c : Config) (d : Decoder) : Parses c d [] d [] 0 := by
  rintro s - rfl
  exact ⟨s, rfl, rfl⟩

/-- 42_laws.md `run`: a stretch after a stretch. -/
theorem Parses.append (hu : Parses c d u d₁ es₁ n₁) (hw : Parses c d₁ w d₂ es₂ n₂) :
    Parses c d (u ++ w) d₂ (es₁ ++ es₂) (n₁ + n₂) := by
  intro s hc hd
  obtain ⟨t, ht, hkept⟩ := hu s hc hd
  obtain ⟨t', ht', hkept'⟩ := hw t ((congrArg State.cfg hkept).trans hc) (congrArg State.dec hkept)
  refine ⟨t', run_append ht ht', hkept'.trans ?_⟩
  exact congrArg (fun r : State => { r with dec := d₂ }) hkept

/-- A stretch after a silent one. -/
theorem Parses.append_of_silent (hu : Parses c d u d₁ [] 0) (hw : Parses c d₁ w d₂ es n) :
    Parses c d (u ++ w) d₂ es n := by
  simpa only [List.nil_append, Nat.zero_add] using hu.append hw

/-- One byte, by the row it selects and that row's effect. -/
theorem Parses.of_row (hc : c.wf = true) (hd : d.inv c = true) (hrow : decode c d.mode d.frameOpen (.rx b) = .ok i)
    (heffect : ∀ s : State, s.cfg = c → s.dec = d → rowEffect i s = { s with dec := d₁, event := e, ovf := o }) :
    Parses c d [b] d₁ (eventList e) o.toNat := by
  rintro s rfl rfl
  have hready : DecoderReady s s.dec.mode s.dec.frameOpen := ⟨hc, hd, rfl, rfl⟩
  refine ⟨{ s with dec := d₁, event := e, ovf := o }, ?_, rfl⟩
  rw [run_cons [] (hready.feed_eq hrow), heffect s rfl rfl, run_nil, record, List.append_nil, Nat.add_zero]

/-- A stretch from the reset state back to it leaves the whole state as it was. -/
theorem Parses.of_reset (h : Parses s.cfg Decoder.reset w Decoder.reset es n) (hd : s.dec = Decoder.reset) :
    ∃ t : State, run s w = .next { state := t, events := es, ovfSteps := n } ∧ withoutOutputs t = withoutOutputs s := by
  obtain ⟨t, ht, hkept⟩ := h s rfl hd
  exact ⟨t, ht, by rw [hkept, ← hd]⟩

/-- A stretch has one answer. -/
theorem Parses.events_unique (h₁ : Parses c d w d₁ es₁ n₁) (h₂ : Parses c d w d₂ es₂ n₂) : es₁ = es₂ := by
  obtain ⟨_, hr₁, -⟩ := h₁ { State.resetWith c with dec := d } rfl rfl
  obtain ⟨_, hr₂, -⟩ := h₂ { State.resetWith c with dec := d } rfl rfl
  exact congrArg RunResult.events (Host.Outcome.next.inj (hr₁.symm.trans hr₂))

/-- A run that answers fed its first byte and went on from there. -/
theorem run_cons_next {r : RunResult} (h : run s (b :: w) = .next r) : ∃ (t : State) (r' : RunResult),
    feed s b = .next t ∧ run t w = .next r' ∧
    r = { r' with events := eventList t.event ++ r'.events, ovfSteps := t.ovf.toNat + r'.ovfSteps } := by
  unfold run at h
  split at h
  · next t ht =>
    unfold record at h
    split at h
    · next r' hr' => exact ⟨t, r', ht, hr', (Host.Outcome.next.inj h).symm⟩
    · cases h
    · cases h
  · cases h
  · cases h

/-- Every part of a run without an event and without `ovf` is such a run. -/
theorem run_take_of_silent (n : Nat) (h : run s w = .next { state := t, events := [], ovfSteps := 0 }) :
    ∃ t' : State, run s (w.take n) = .next { state := t', events := [], ovfSteps := 0 } := by
  induction w generalizing s n with
  | nil => exact ⟨t, by rwa [List.take_nil]⟩
  | cons b w ih =>
    cases n with
    | zero => exact ⟨s, rfl⟩
    | succ n =>
      obtain ⟨s', ⟨t', es, k⟩, hfeed, hrest, hr⟩ := run_cons_next h
      obtain ⟨rfl, hes, hk⟩ := (RunResult.mk.injEq ..).mp hr
      obtain ⟨hevent, rfl⟩ := List.append_eq_nil_iff.mp hes.symm
      obtain ⟨hovf, rfl⟩ := Nat.add_eq_zero_iff.mp hk.symm
      obtain ⟨t', ht'⟩ := ih n hrest
      refine ⟨t', ?_⟩
      rw [List.take_succ_cons, run_cons _ hfeed, ht', record, hevent, hovf]
      rfl

end Sys2Proof.Machine
end


section
/-! The decoder's rows as stretches of one byte (40_decoder.md R102 to R114). -/

namespace Sys2Proof.Machine

variable {c : Config} {m : Mode} {q : Bytes} {b v : Byte} {i : Instr}

theorem escaped_closed_inv (c : Config) : Decoder.inv c ⟨.escaped, false, []⟩ = true := by
  simp [Decoder.inv_iff]

theorem open_inv (hm : m ≠ .idle) (hq : q.length ≤ c.cap) : Decoder.inv c ⟨m, true, q⟩ = true := by
  simp [Decoder.inv_iff, hm, hq]

theorem parses_idle_raw (hc : c.wf = true) (hb : b ≠ c.escape) : Parses c Decoder.reset [b] Decoder.reset [] 0 :=
  Parses.of_row (e := .none) (o := false) hc (Decoder.reset_inv c) (decode_idle_raw hc hb) fun _ _ h => h ▸ rfl

theorem parses_idle_escape (hc : c.wf = true) : Parses c Decoder.reset [c.escape] ⟨.escaped, false, []⟩ [] 0 :=
  Parses.of_row (e := .none) (o := false) hc (Decoder.reset_inv c) (decode_idle_escape hc) fun s _ h => by
    rw [rowEffect, setMode, h]
    rfl

theorem parses_escaped_begin (hc : c.wf = true) :
    Parses c ⟨.escaped, false, []⟩ [c.frameBegin] ⟨.inFrame, true, []⟩ [] 0 :=
  Parses.of_row (e := .none) (o := false) hc (escaped_closed_inv c) (decode_escaped_frameBegin hc false)
    fun _ _ _ => rfl

/-- R106. -/
theorem parses_escaped_end (hc : c.wf = true) (hq : q.length ≤ c.cap) :
    Parses c ⟨.escaped, true, q⟩ [c.frameEnd] Decoder.reset [.frameReady q] 0 :=
  Parses.of_row (e := .frameReady q) (o := false) hc (open_inv (by decide) hq) (decode_escaped_frameEnd hc true)
    fun s _ h => by
      rw [if_pos rfl, rowEffect, h]
      rfl

/-- R201: a row that raises. -/
theorem parses_raise {d : Decoder} {r : Reason} (hc : c.wf = true) (hd : d.inv c = true)
    (hrow : decode c d.mode d.frameOpen (.rx b) = .ok i) (hraise : ∀ s, rowEffect i s = raise r s) :
    Parses c d [b] Decoder.reset [.protocolError r] 0 :=
  Parses.of_row (e := .protocolError r) (o := false) hc hd hrow fun s _ _ => hraise s

theorem parses_inFrame_escape (hc : c.wf = true) (hq : q.length ≤ c.cap) :
    Parses c ⟨.inFrame, true, q⟩ [c.escape] ⟨.escaped, true, q⟩ [] 0 :=
  Parses.of_row (e := .none) (o := false) hc (open_inv (by decide) hq) (decode_inFrame_escape hc) fun s _ h => by
    rw [rowEffect, setMode, h]
    rfl

/-- R52, R177: a row that appends keeps the first `CAP` bytes, and drops its own with `ovf` when there are as many. -/
theorem parses_append (hc : c.wf = true) (hm : m ≠ .idle) (hq : q.length ≤ c.cap)
    (hrow : decode c m true (.rx b) = .ok i)
    (happend : ∀ s : State, s.cfg = c → rowEffect i s = appendAndStay v s) :
    Parses c ⟨m, true, q⟩ [b] ⟨.inFrame, true, (q ++ [v]).take c.cap⟩ [] (q.length + 1 - c.cap) := by
  have hkept : (q ++ [v]).take c.cap = if q.length < c.cap then q ++ [v] else q := by
    split
    · next h => exact List.take_of_length_le (by rwa [List.length_append])
    · next h => rw [List.take_append_of_le_length (Nat.le_of_not_lt h), List.take_of_length_le hq]
  have hovf : q.length + 1 - c.cap = (!decide (q.length < c.cap)).toNat := by
    by_cases h : q.length < c.cap
    · rw [decide_eq_true h, Bool.not_true, Bool.toNat_false, Nat.sub_eq_zero_of_le h]
    · rw [decide_eq_false h, Bool.not_false, Bool.toNat_true]
      omega
  rw [hkept, hovf]
  refine Parses.of_row (e := .none) hc (open_inv hm hq) hrow fun s hcfg hdec => ?_
  rw [happend s hcfg, appendAndStay_eq, hcfg, hdec]

/-- R76, R177: the wire bytes of an item contribute its value. -/
theorem parses_item {x : Item} (hc : c.wf = true) (hq : q.length ≤ c.cap) (hx : itemWf c x = true) :
    Parses c ⟨.inFrame, true, q⟩ (itemWire c x) ⟨.inFrame, true, (q ++ [itemValue c x]).take c.cap⟩ []
      (q.length + 1 - c.cap) := by
  cases x with
  | raw b =>
    have hb : b ≠ c.escape := by simpa [itemWf] using hx
    exact parses_append hc (by decide) hq (decode_inFrame_raw hc hb) fun _ _ => rfl
  | literalZero =>
    exact (parses_inFrame_escape hc hq).append_of_silent
      (parses_append hc (by decide) hq (decode_escaped_literalZero hc true) fun _ _ => rfl)
  | literalEscape =>
    exact (parses_inFrame_escape hc hq).append_of_silent
      (parses_append hc (by decide) hq (decode_escaped_literalEscape hc true) fun _ hcfg => hcfg ▸ rfl)

/-- Truncating before an append that is truncated again changes nothing. -/
theorem take_take_append (k : Nat) (l l' : Bytes) : (l.take k ++ l').take k = (l ++ l').take k := by
  have hroom : k - (l.take k).length = k - l.length := by
    rw [List.length_take]
    omega
  rw [List.take_append, List.take_append, hroom, List.take_take, Nat.min_self]

/-- R76, R177, R178: the wire bytes of items contribute their values in order, the first `CAP` of them. -/
theorem parses_items {xs : List Item} (hc : c.wf = true) (hq : q.length ≤ c.cap)
    (hxs : ∀ x ∈ xs, itemWf c x = true) :
    Parses c ⟨.inFrame, true, q⟩ (itemsWire c xs) ⟨.inFrame, true, (q ++ xs.map (itemValue c)).take c.cap⟩ []
      (q.length + xs.length - c.cap) := by
  induction xs generalizing q with
  | nil => simpa [itemsWire, List.take_of_length_le hq, hq] using Parses.nil c ⟨.inFrame, true, q⟩
  | cons x xs ih =>
    obtain ⟨hx, hxs⟩ := List.forall_mem_cons.mp hxs
    have hrest := ih (q := (q ++ [itemValue c x]).take c.cap) (List.length_take_le ..) hxs
    have h := (parses_item hc hq hx).append hrest
    have hpayload : ((q ++ [itemValue c x]).take c.cap ++ xs.map (itemValue c)).take c.cap =
        (q ++ (x :: xs).map (itemValue c)).take c.cap := by
      rw [take_take_append, List.append_assoc]
      rfl
    have hovf : q.length + 1 - c.cap + (((q ++ [itemValue c x]).take c.cap).length + xs.length - c.cap) =
        q.length + (x :: xs).length - c.cap := by
      simp only [List.length_take, List.length_append, List.length_cons, List.length_nil]
      omega
    rw [hpayload, hovf] at h
    exact h

end Sys2Proof.Machine
end

section
/-! Frames of items as stretches, and an encoded message as the frame of its payload's items (30_encoding.md R71 to R84,
41_encoder.md R140). -/

namespace Sys2Proof.Machine

variable {c : Config} {p : Bytes} {xs : List Item}

/-- R71, R140: the item the encoder emits for a payload byte. -/
def payloadItem (c : Config) (v : Byte) : Item :=
  if v = 0x00#8 then .literalZero else if v = c.escape then .literalEscape else .raw v

theorem itemWire_payloadItem (c : Config) (v : Byte) : itemWire c (payloadItem c v) = stuff c v := by
  unfold payloadItem stuff
  split_ifs <;> rfl

theorem itemValue_payloadItem (c : Config) (v : Byte) : itemValue c (payloadItem c v) = v := by
  unfold payloadItem
  split_ifs with h0 he
  · exact h0.symm
  · exact he.symm
  · rfl

theorem itemWf_payloadItem (c : Config) (v : Byte) : itemWf c (payloadItem c v) = true := by
  unfold payloadItem
  split_ifs with h0 he
  · rfl
  · rfl
  · exact bne_iff_ne.mpr he

theorem itemsWire_payloadItems (c : Config) (p : Bytes) :
    itemsWire c (p.map (payloadItem c)) = p.flatMap (stuff c) := by
  simp only [itemsWire, List.flatMap_map, itemWire_payloadItem]

theorem map_itemValue_payloadItems (c : Config) (p : Bytes) :
    (p.map (payloadItem c)).map (itemValue c) = p := by
  have hid : itemValue c ∘ payloadItem c = id := funext (itemValue_payloadItem c)
  rw [List.map_map, hid, List.map_id]

/-- R84 `SOF`. -/
theorem parses_wireBegin (hc : c.wf = true) : Parses c Decoder.reset (wireBegin c) ⟨.inFrame, true, []⟩ [] 0 :=
  (parses_idle_escape hc).append_of_silent (parses_escaped_begin hc)

/-- A frame of items up to the `ESCAPE` of its end. -/
theorem parses_unclosedFrame (hc : c.wf = true) (hxs : ∀ x ∈ xs, itemWf c x = true) :
    Parses c Decoder.reset (wireBegin c ++ itemsWire c xs ++ [c.escape])
      ⟨.escaped, true, (xs.map (itemValue c)).take c.cap⟩ [] (xs.length - c.cap) := by
  have hitems := parses_items (q := []) hc (Nat.zero_le _) hxs
  rw [List.nil_append, List.length_nil, Nat.zero_add] at hitems
  exact ((parses_wireBegin hc).append_of_silent hitems).append
    (parses_inFrame_escape hc (List.length_take_le ..))

/-- R76, R177, R178: a frame of items delivers the first `CAP` of their values. -/
theorem parses_frame (hc : c.wf = true) (hxs : ∀ x ∈ xs, itemWf c x = true) :
    Parses c Decoder.reset (wireBegin c ++ itemsWire c xs ++ wireEnd c) Decoder.reset
      [.frameReady ((xs.map (itemValue c)).take c.cap)] (xs.length - c.cap) := by
  have h := (parses_unclosedFrame hc hxs).append (parses_escaped_end hc (List.length_take_le ..))
  rwa [List.append_assoc _ [c.escape]] at h

theorem encodeMessage_eq_frame (c : Config) (p : Bytes) :
    encodeMessage c p = wireBegin c ++ itemsWire c (p.map (payloadItem c)) ++ wireEnd c := by
  rw [itemsWire_payloadItems, encodeMessage]

theorem payloadItems_wf (c : Config) (p : Bytes) : ∀ x ∈ p.map (payloadItem c), itemWf c x = true :=
  List.forall_mem_map.mpr fun v _ => itemWf_payloadItem c v

/-- R177, R178: an encoded message of any length decodes to the first `CAP` bytes of its payload. -/
theorem parses_encodeMessage (hc : c.wf = true) (p : Bytes) :
    Parses c Decoder.reset (encodeMessage c p) Decoder.reset [.frameReady (p.take c.cap)] (p.length - c.cap) := by
  have h := parses_frame hc (payloadItems_wf c p)
  rwa [← encodeMessage_eq_frame, map_itemValue_payloadItems, List.length_map] at h

theorem parses_encodeMessage_of_fits (hc : c.wf = true) (hp : p.length ≤ c.cap) :
    Parses c Decoder.reset (encodeMessage c p) Decoder.reset [.frameReady p] 0 := by
  have h := parses_encodeMessage hc p
  rwa [List.take_of_length_le hp, Nat.sub_eq_zero_of_le hp] at h

/-- R170: all of a message but its last byte gives no event and no `ovf`. -/
theorem parses_encodeMessage_dropLast (hc : c.wf = true) (hp : p.length ≤ c.cap) :
    Parses c Decoder.reset (encodeMessage c p).dropLast ⟨.escaped, true, p⟩ [] 0 := by
  have h := parses_unclosedFrame hc (payloadItems_wf c p)
  rw [map_itemValue_payloadItems, List.length_map, List.take_of_length_le hp, Nat.sub_eq_zero_of_le hp] at h
  have hlast : encodeMessage c p = wireBegin c ++ itemsWire c (p.map (payloadItem c)) ++ [c.escape] ++ [c.frameEnd] := by
    rw [encodeMessage_eq_frame, List.append_assoc _ [c.escape]]
    rfl
  rwa [hlast, List.dropLast_concat]

end Sys2Proof.Machine
end

section
/-! The laws of the pair: round trip, resynchronisation, nested begin, filler (42_laws.md R170 to R172, R175). -/

namespace Sys2Proof

/-- The configuration with room for `k` more bytes. -/
def Config.enlarge (c : Config) (k : Nat) : Config := { c with cap := c.cap + k }

theorem Config.enlarge_wf {c : Config} (hc : c.wf = true) (k : Nat) : (c.enlarge k).wf = true := by
  obtain ⟨hnodup, hzero, hcap⟩ := of_decide_eq_true hc
  exact decide_eq_true ⟨hnodup, hzero, Nat.le_add_right_of_le hcap⟩

end Sys2Proof

namespace Sys2Proof.Machine

variable {c : Config} {g p q : Bytes}

/-- R140: `encode` reads the alphabet only. -/
theorem encodeMessage_enlarge (c : Config) (k : Nat) (p : Bytes) :
    encodeMessage (c.enlarge k) p = encodeMessage c p := rfl

/-- R170: a decoder with room for both payloads delivers each of them from the one message. -/
theorem encodeMessage_injective (hc : c.wf = true) (h : encodeMessage c p = encodeMessage c q) : p = q := by
  have hwf := Config.enlarge_wf hc (p.length + q.length)
  have hdelivers : ∀ r : Bytes, r.length ≤ p.length + q.length →
      Parses (c.enlarge (p.length + q.length)) Decoder.reset (encodeMessage c r) Decoder.reset
        [.frameReady r] 0 :=
    fun r hr => encodeMessage_enlarge c _ r ▸ parses_encodeMessage_of_fits hwf (Nat.le_add_left_of_le hr)
  have hp := hdelivers p (Nat.le_add_right ..)
  have hq := hdelivers q (Nat.le_add_left ..)
  exact Event.frameReady.inj (List.singleton_inj.mp (hp.events_unique (h ▸ hq)))

/-- Settles O32: the frame of the payload's items decodes to it, all but the message's last byte is silent and so is
every part of that, and a message determines what a large enough decoder delivers. -/
theorem decodeInvertsEncode : Obligations.DecodeInvertsEncode := by
  refine ⟨fun s p hc hd hp => ⟨(parses_encodeMessage_of_fits hc hp).of_reset hd, fun n hn => ?_⟩,
    fun c p q hc => encodeMessage_injective hc⟩
  obtain ⟨t, ht, -⟩ := parses_encodeMessage_dropLast hc hp s rfl hd
  have hpart := run_take_of_silent n ht
  rwa [List.dropLast_eq_take, List.take_take, Nat.min_eq_left (Nat.le_sub_one_of_lt hn)] at hpart

/-- R175: filler in the reset state. -/
theorem parses_filler (hc : c.wf = true) (hg : ∀ b ∈ g, b ≠ c.escape) :
    Parses c Decoder.reset g Decoder.reset [] 0 := by
  induction g with
  | nil => exact Parses.nil c _
  | cons b g ih =>
    obtain ⟨hb, hg⟩ := List.forall_mem_cons.mp hg
    exact (parses_idle_raw hc hb).append_of_silent (ih hg)

/-- Settles O33: the garbage is filler, and the frame after it meets the reset state. -/
theorem decoderResynchronisesAfterGarbage : Obligations.DecoderResynchronisesAfterGarbage :=
  fun _ _ _ hc hd hg hp =>
    ((parses_filler hc hg).append_of_silent (parses_encodeMessage_of_fits hc hp)).of_reset hd

/-- Settles O35: the bytes are filler. -/
theorem idleIgnoresBytesOtherThanEscape : Obligations.IdleIgnoresBytesOtherThanEscape := fun _ _ hc hd hg =>
  (parses_filler hc hg).of_reset hd

/-- R105: a begin inside an open frame closes it with an error. -/
theorem parses_nestedBegin (hc : c.wf = true) (hq : q.length ≤ c.cap) :
    Parses c ⟨.inFrame, true, q⟩ (wireBegin c) Decoder.reset [.protocolError .unexpectedBegin] 0 :=
  (parses_inFrame_escape hc hq).append_of_silent
    (parses_raise hc (open_inv (by decide) hq) (decode_escaped_frameBegin hc true) fun _ => rfl)

/-- R107: an end in the reset state. -/
theorem parses_strayEnd (hc : c.wf = true) :
    Parses c Decoder.reset (wireEnd c) Decoder.reset [.protocolError .unexpectedEnd] 0 :=
  (parses_idle_escape hc).append_of_silent
    (parses_raise hc (escaped_closed_inv c) (decode_escaped_frameEnd hc false) fun _ => rfl)

/-- R112, corner case: an `ESCAPE` in the reset state takes the `ESCAPE` of the end as its marker, and the `FRAME_END`
left over is filler. -/
theorem parses_escape_wireEnd (hc : c.wf = true) : Parses c Decoder.reset ([c.escape] ++ wireEnd c) Decoder.reset
    [.protocolError .unknownControlSequence] 0 := by
  have hend : c.frameEnd ≠ c.escape := by
    obtain ⟨-, h, -⟩ := Config.distinct_of_wf hc
    exact h.symm
  have hmark : Parses c ⟨.escaped, false, []⟩ [c.escape] Decoder.reset [.protocolError .unknownControlSequence] 0 :=
    parses_raise hc (escaped_closed_inv c) (decode_escaped_other hc false (cls2_escape hc)) fun _ => rfl
  exact (parses_idle_escape hc).append_of_silent (hmark.append (parses_idle_raw hc hend))

/-- R172: the byte and the end that follow a rejected begin. -/
theorem parses_byte_wireEnd (hc : c.wf = true) (x : Byte) : Parses c Decoder.reset ([x] ++ wireEnd c) Decoder.reset
    [.protocolError (if x = c.escape then .unknownControlSequence else .unexpectedEnd)] 0 := by
  split
  · next hx => exact hx ▸ parses_escape_wireEnd hc
  · next hx => exact (parses_idle_raw hc hx).append_of_silent (parses_strayEnd hc)

/-- R172: a begin in a frame just opened, and what is left of the frame it would have opened. -/
theorem parses_nestedFrame (hc : c.wf = true) (x : Byte) :
    Parses c Decoder.reset (wireBegin c ++ wireBegin c ++ [x] ++ wireEnd c) Decoder.reset
      [.protocolError .unexpectedBegin,
       .protocolError (if x = c.escape then .unknownControlSequence else .unexpectedEnd)] 0 := by
  have hnested := (parses_wireBegin hc).append_of_silent (parses_nestedBegin hc (Nat.zero_le _))
  have h := hnested.append (parses_byte_wireEnd hc x)
  rwa [← List.append_assoc] at h

/-- Settles O34: after both errors the decoder is in its reset state, where the next frame is decoded. -/
theorem nestedBeginIsRejectedAndTheNextFrameDecoded : Obligations.NestedBeginIsRejectedAndTheNextFrameDecoded := by
  refine fun s x hc hd => ⟨(parses_nestedFrame hc x).of_reset hd, fun p hp => ?_⟩
  obtain ⟨t, ht, -⟩ := ((parses_nestedFrame hc x).append (parses_encodeMessage_of_fits hc hp)).of_reset hd
  exact ⟨t, ht⟩

end Sys2Proof.Machine
end

section
/-! The three appending rows and the strobe (20_memory.md R52, 60_exceptions.md R195). -/

namespace Sys2Proof.Machine

variable {s t : State} {i : Instr}

/-- The three rows that append a payload byte. -/
def Appends (i : Instr) : Prop := i = .dEscLitesc ∨ i = .dEscLitzero ∨ ∃ b, i = .dFrameData b

/-- R52: the effect of an appending row is an append. -/
theorem Appends.effect (h : Appends i) (s : State) : ∃ v : Byte, rowEffect i s = appendAndStay v s := by
  rcases h with rfl | rfl | ⟨b, rfl⟩
  · exact ⟨s.cfg.escape, rfl⟩
  · exact ⟨0x00#8, rfl⟩
  · exact ⟨b, rfl⟩

/-- R22: a row that appends is one of the decoder's, and is selected with the frame open only. -/
theorem Appends.columns (h : Appends i) : i.isDecoderRow = true ∧ i.rowOpen = some true := by
  rcases h with rfl | rfl | ⟨b, rfl⟩ <;> exact ⟨rfl, rfl⟩

/-- R30: no other row sets the strobe. -/
theorem appends_of_ovf (h : (rowEffect i s).ovf = true) : Appends i := by
  cases i
  case dEscLitesc => exact .inl rfl
  case dEscLitzero => exact .inr (.inl rfl)
  case dFrameData b => exact .inr (.inr ⟨b, rfl⟩)
  all_goals cases h

/-- R24, R85: where an appending row answers, the rows of its mode execute, with the frame open. -/
theorem Appends.decoderReady (h : Appends i) (he : exec i s = .next t) : DecoderReady s s.dec.mode true := by
  obtain ⟨hrow, hcolumn⟩ := h.columns
  obtain ⟨hc, -, -, hsel⟩ := exec_next he
  obtain ⟨hinv, hs⟩ := hsel hrow
  simp only [Instr.selectedBy, hcolumn, Option.all_some, Bool.and_eq_true, beq_iff_eq] at hs
  obtain ⟨-, hopen⟩ := hs
  exact ⟨hc, hinv, rfl, hopen.symm⟩

/-- R52: what an appending row leaves, in a reachable state. -/
theorem Appends.exec_next_eq (h : Appends i) (he : exec i s = .next t) : ∃ v : Byte, t = { s with
    dec := { mode := .inFrame, frameOpen := true,
             payload := if s.dec.payload.length < s.cfg.cap then s.dec.payload ++ [v] else s.dec.payload },
    event := .none, ovf := decide (s.dec.payload.length = s.cfg.cap) } := by
  obtain ⟨-, -, rfl, -⟩ := exec_next he
  obtain ⟨v, hv⟩ := h.effect s
  exact ⟨v, hv.trans ((h.decoderReady he).appendAndStay_eq v)⟩

/-- R195: the strobe of a row is 1 exactly when the row appends to a full buffer. -/
theorem ovf_iff_of_exec (he : exec i s = .next t) :
    t.ovf = true ↔ Appends i ∧ s.dec.payload.length = s.cfg.cap := by
  have hstrobe : Appends i → (t.ovf = true ↔ s.dec.payload.length = s.cfg.cap) := by
    intro h
    obtain ⟨v, rfl⟩ := h.exec_next_eq he
    exact decide_eq_true_iff
  have happends : t.ovf = true → Appends i := by
    obtain ⟨-, -, rfl, -⟩ := exec_next he
    exact appends_of_ovf
  exact ⟨fun ho => ⟨happends ho, (hstrobe (happends ho)).mp ho⟩, fun ⟨h, hfull⟩ => (hstrobe h).mpr hfull⟩

/-- Settles O46: only the three appending rows drive the strobe, and at capacity their append leaves the payload. -/
theorem overflowDropsTheByteAndContinues : Obligations.OverflowDropsTheByteAndContinues := by
  refine fun i s t he => ⟨ovf_iff_of_exec he, fun ho => ?_⟩
  obtain ⟨h, hfull⟩ := (ovf_iff_of_exec he).mp ho
  obtain ⟨v, rfl⟩ := h.exec_next_eq he
  rw [if_neg hfull.not_lt, decide_eq_true hfull]

end Sys2Proof.Machine
end

section
/-! The rows that raise (60_exceptions.md R190 to R195), and the one recovery they take (R201). -/

namespace Sys2Proof.Machine

variable {s : State} {i : Instr} {r : Reason}

/-- R191 to R194: the rows that raise a condition; R195: no row raises `PayloadOverflow`. -/
def Raises : Reason → Instr → Prop
  | .unexpectedBegin, i => i = .dEscBeginNested
  | .unexpectedEnd, i => i = .dEscEndStray
  | .unknownControlSequence, i => ∃ b, i = .dEscUnknown b
  | .payloadOverflow, _ => False
  | .literalOutsideFrame, i => i = .dEscLitescStray ∨ i = .dEscLitzeroStray

/-- R201: the effect of a row that raises is the recovery with the reason. -/
theorem Raises.effect (h : Raises r i) (s : State) : rowEffect i s = raise r s := by
  cases r with
  | unexpectedBegin | unexpectedEnd =>
    obtain rfl := h
    rfl
  | unknownControlSequence =>
    obtain ⟨b, rfl⟩ := h
    rfl
  | payloadOverflow => exact h.elim
  | literalOutsideFrame => obtain rfl | rfl := h <;> rfl

/-- R190: no other row outputs an error. -/
theorem raises_of_protocolError (h : (rowEffect i s).event = .protocolError r) : Raises r i := by
  cases i
  case dEscBeginNested | dEscEndStray => exact Event.protocolError.inj h ▸ rfl
  case dEscUnknown b => exact Event.protocolError.inj h ▸ ⟨b, rfl⟩
  case dEscLitescStray => exact Event.protocolError.inj h ▸ .inl rfl
  case dEscLitzeroStray => exact Event.protocolError.inj h ▸ .inr rfl
  all_goals cases h

theorem rowEffect_protocolError_iff : (rowEffect i s).event = .protocolError r ↔ Raises r i :=
  ⟨raises_of_protocolError, fun h => congrArg State.event (h.effect s)⟩

/-- Settles O47: a row with an error for its event raises it, and what `raise` leaves is the decoder's reset state. -/
theorem everyProtocolErrorRecoversTheSameWay : Obligations.EveryProtocolErrorRecoversTheSameWay := by
  intro i s t r he ht
  obtain ⟨-, -, rfl, -⟩ := exec_next he
  exact (raises_of_protocolError ht).effect s

end Sys2Proof.Machine
end

section
/-! The causes of the events (40_decoder.md R106, 60_exceptions.md R191 to R195): which row outputs an event, and which
state and byte select that row. -/

namespace Sys2Proof

variable {c : Config} {m : Mode} {fo : Bool} {b : Byte} {i : Instr}

theorem decodeIdle_encode (c : Config) (b : Byte) : (decodeIdle c b).encode c = .rx b := by
  by_cases hb : b = c.escape
  · rw [decodeIdle, hb, cls1_escape]
    rfl
  · rw [decodeIdle, cls1_raw hb]
    rfl

theorem decodeInFrame_encode (c : Config) (b : Byte) : (decodeInFrame c b).encode c = .rx b := by
  by_cases hb : b = c.escape
  · rw [decodeInFrame, hb, cls1_escape]
    rfl
  · rw [decodeInFrame, cls1_raw hb]
    rfl

/-- R75: the class of a marker determines the byte. -/
theorem decodeEscaped_encode (c : Config) (fo : Bool) (b : Byte) : (decodeEscaped c fo b).encode c = .rx b := by
  unfold decodeEscaped cls2
  split_ifs with hBegin hEnd hEsc hZero <;> cases fo <;> simp only [Instr.encode, *]

/-- R85: the input of the row a fed byte selects is that byte. -/
theorem encode_of_decode_rx (h : decode c m fo (.rx b) = .ok i) : i.encode c = .rx b := by
  unfold decode at h
  split at h
  · cases m with
    | idle =>
      cases fo <;> cases h
      exact decodeIdle_encode c b
    | escaped =>
      cases h
      exact decodeEscaped_encode c fo b
    | inFrame =>
      cases fo <;> cases h
      exact decodeInFrame_encode c b
  · cases h

/-- R85: what a row's columns say where a byte selects it. -/
theorem columns_of_decode_rx (h : decode c m fo (.rx b) = .ok i) :
    i.wf c = true ∧ i.rowMode.all (· == m) = true ∧ i.rowOpen.all (· == fo) = true ∧ i.encode c = .rx b := by
  have hs := decode_rx_selected h
  rw [Instr.selectedBy, Bool.and_eq_true, Bool.and_eq_true] at hs
  obtain ⟨⟨hwf, hmode⟩, hopen⟩ := hs
  exact ⟨hwf, hmode, hopen, encode_of_decode_rx h⟩

/-- R85: where and by which bytes a row is selected whose three columns are single values. -/
theorem decode_rx_iff {m₀ : Mode} {fo₀ : Bool} (hmode : i.rowMode = some m₀) (hopen : i.rowOpen = some fo₀)
    (hd : decode c m₀ fo₀ (i.encode c) = .ok i) :
    decode c m fo (.rx b) = .ok i ↔ m = m₀ ∧ fo = fo₀ ∧ .rx b = i.encode c := by
  constructor
  · intro h
    obtain ⟨-, hm, hfo, hb⟩ := columns_of_decode_rx h
    simp only [hmode, hopen, Option.all_some, beq_iff_eq] at hm hfo
    exact ⟨hm.symm, hfo.symm, hb.symm⟩
  · rintro ⟨rfl, rfl, hb⟩
    rw [hb, hd]

/-- R193: a byte is an unknown marker in mode Escaped only, and there exactly when it is none of the four. -/
theorem decode_rx_dEscUnknown_iff (hc : c.wf = true) : (∃ v, decode c m fo (.rx b) = .ok (.dEscUnknown v)) ↔
    m = .escaped ∧ b ≠ c.frameBegin ∧ b ≠ c.frameEnd ∧ b ≠ c.literalZero ∧ b ≠ c.literalEscape := by
  constructor
  · rintro ⟨v, h⟩
    obtain ⟨hwf, hm, -, hb⟩ := columns_of_decode_rx h
    obtain rfl := Sel.rx.inj hb
    obtain ⟨hBegin, hEnd, hEsc, hZero⟩ : v ≠ c.frameBegin ∧ v ≠ c.frameEnd ∧ v ≠ c.literalEscape ∧
        v ≠ c.literalZero := by simpa [Instr.wf, and_assoc] using hwf
    exact ⟨(beq_iff_eq.mp hm).symm, hBegin, hEnd, hZero, hEsc⟩
  · rintro ⟨rfl, hBegin, hEnd, hZero, hEsc⟩
    exact ⟨b, decode_escaped_other hc fo ((cls2_other_iff c b).mpr ⟨hBegin, hEnd, hEsc, hZero⟩)⟩

end Sys2Proof

namespace Sys2Proof.Machine

variable {s t : State} {b : Byte} {r : Reason}

/-- A fed byte gives an error exactly when it selects a row that raises it. -/
theorem feed_protocolError_iff (h : feed s b = .next t) : t.event = .protocolError r ↔
    ∃ i, Raises r i ∧ decode s.cfg s.dec.mode s.dec.frameOpen (.rx b) = .ok i := by
  obtain ⟨-, -, i, -, hd, rfl⟩ := feed_next h
  simp only [rowEffect_protocolError_iff, hd, Except.ok.injEq, exists_eq_right']

/-- R191. -/
theorem feed_unexpectedBegin_iff (h : feed s b = .next t) : t.event = .protocolError .unexpectedBegin ↔
    s.dec.mode = .escaped ∧ s.dec.frameOpen = true ∧ b = s.cfg.frameBegin := by
  obtain ⟨hc, -⟩ := feed_next h
  rw [feed_protocolError_iff h]
  simp only [Raises, exists_eq_left, decode_rx_iff (i := .dEscBeginNested) rfl rfl (decode_escaped_frameBegin hc true),
    Instr.encode, Sel.rx.injEq]

/-- R192. -/
theorem feed_unexpectedEnd_iff (h : feed s b = .next t) : t.event = .protocolError .unexpectedEnd ↔
    s.dec.mode = .escaped ∧ s.dec.frameOpen = false ∧ b = s.cfg.frameEnd := by
  obtain ⟨hc, -⟩ := feed_next h
  rw [feed_protocolError_iff h]
  simp only [Raises, exists_eq_left, decode_rx_iff (i := .dEscEndStray) rfl rfl (decode_escaped_frameEnd hc false),
    Instr.encode, Sel.rx.injEq]

/-- R193. -/
theorem feed_unknownControlSequence_iff (h : feed s b = .next t) :
    t.event = .protocolError .unknownControlSequence ↔ s.dec.mode = .escaped ∧ b ≠ s.cfg.frameBegin ∧
      b ≠ s.cfg.frameEnd ∧ b ≠ s.cfg.literalZero ∧ b ≠ s.cfg.literalEscape := by
  obtain ⟨hc, -⟩ := feed_next h
  rw [feed_protocolError_iff h, ← decode_rx_dEscUnknown_iff hc (fo := s.dec.frameOpen)]
  simp only [Raises, ↓existsAndEq, true_and]

/-- R194: either literal, each by its own row. -/
theorem feed_literalOutsideFrame_iff (h : feed s b = .next t) :
    t.event = .protocolError .literalOutsideFrame ↔ s.dec.mode = .escaped ∧ s.dec.frameOpen = false ∧
      (b = s.cfg.literalZero ∨ b = s.cfg.literalEscape) := by
  obtain ⟨hc, -⟩ := feed_next h
  rw [feed_protocolError_iff h, or_comm (a := b = s.cfg.literalZero), and_or_left, and_or_left]
  simp only [Raises, or_and_right, exists_or, exists_eq_left,
    decode_rx_iff (i := .dEscLitescStray) rfl rfl (decode_escaped_literalEscape hc false),
    decode_rx_iff (i := .dEscLitzeroStray) rfl rfl (decode_escaped_literalZero hc false), Instr.encode, Sel.rx.injEq]

/-- R195. -/
theorem feed_never_payloadOverflow (h : feed s b = .next t) : t.event ≠ .protocolError .payloadOverflow := by
  intro ht
  obtain ⟨_, hraises, -⟩ := (feed_protocolError_iff h).mp ht
  exact hraises

/-- R106. -/
theorem feed_frameReady_iff (h : feed s b = .next t) : (∃ p, t.event = .frameReady p) ↔
    s.dec.mode = .escaped ∧ s.dec.frameOpen = true ∧ b = s.cfg.frameEnd := by
  obtain ⟨hc, -, i, -, hd, rfl⟩ := feed_next h
  have hrow : (∃ p, (rowEffect i s).event = .frameReady p) ↔ i = .dEscEnd := by
    constructor
    · rintro ⟨p, hp⟩
      exact eq_dEscEnd_of_frameReady hp
    · rintro rfl
      exact ⟨_, rfl⟩
  rw [hrow, ← Except.ok.injEq, ← hd, decode_rx_iff rfl rfl (decode_escaped_frameEnd hc true)]
  simp only [Instr.encode, Sel.rx.injEq]

/-- Settles O45: an event is output exactly when the state and the byte select one of its rows, and R201 says what an
error leaves. -/
theorem eventsHaveTheCausesTheSpecNames : Obligations.EventsHaveTheCausesTheSpecNames := by
  intro s t b h
  refine ⟨feed_unexpectedBegin_iff h, feed_unexpectedEnd_iff h, feed_unknownControlSequence_iff h,
    feed_literalOutsideFrame_iff h, feed_never_payloadOverflow h, feed_frameReady_iff h, fun r ht => ?_⟩
  obtain ⟨i, -, he⟩ := runRow_next h
  exact everyProtocolErrorRecoversTheSameWay i s t r he ht

end Sys2Proof.Machine
end

section
/-! The transition map read both ways (30_encoding.md R75 to R85): which context and input select a row, that every
reachable state and byte select one, and how many second bytes are no marker. -/

namespace Sys2Proof

variable {c : Config} {m m₀ : Mode} {fo fo₀ : Bool} {i : Instr} {w : Sel} {d : Machine.Decoder} {b : Byte}

theorem Instr.selectedBy_iff : i.selectedBy c m fo = true ↔
    i.wf c = true ∧ i.rowMode.all (· == m) = true ∧ i.rowOpen.all (· == fo) = true := by
  rw [Instr.selectedBy, Bool.and_eq_true, Bool.and_eq_true, and_assoc]

/-- R85: a row whose mode column is a single value is selected in that mode. -/
theorem Instr.mode_of_selectedBy (h : i.selectedBy c m fo = true) (hmode : i.rowMode = some m₀) : m = m₀ := by
  obtain ⟨-, hm, -⟩ := Instr.selectedBy_iff.mp h
  rw [hmode, Option.all_some, beq_iff_eq] at hm
  exact hm.symm

/-- R85: a row whose frame-open column is a single value is selected with that value. -/
theorem Instr.open_of_selectedBy (h : i.selectedBy c m fo = true) (hopen : i.rowOpen = some fo₀) : fo = fo₀ := by
  obtain ⟨-, -, hfo⟩ := Instr.selectedBy_iff.mp h
  rw [hopen, Option.all_some, beq_iff_eq] at hfo
  exact hfo.symm

/-- R85: a row with single values in both columns has one context, the one in which it is read. -/
theorem decode_encode_of_columns (h : i.selectedBy c m fo = true) (hmode : i.rowMode = some m₀)
    (hopen : i.rowOpen = some fo₀) (hd : decode c m₀ fo₀ (i.encode c) = .ok i) :
    decode c m fo (i.encode c) = .ok i := by
  rw [Instr.mode_of_selectedBy h hmode, Instr.open_of_selectedBy h hopen, hd]

/-- R85: a row is read from its input in every context that selects it. -/
theorem decode_encode_of_selectedBy (hc : c.wf = true) (h : i.selectedBy c m fo = true) :
    decode c m fo (i.encode c) = .ok i := by
  obtain ⟨hwf, -, -⟩ := Instr.selectedBy_iff.mp h
  cases i
  case dIdleSkip b => exact decode_encode_of_columns h rfl rfl (decode_idle_raw hc (bne_iff_ne.mp hwf))
  case dIdleEsc => exact decode_encode_of_columns h rfl rfl (decode_idle_escape hc)
  case dEscBegin => exact decode_encode_of_columns h rfl rfl (decode_escaped_frameBegin hc false)
  case dEscBeginNested => exact decode_encode_of_columns h rfl rfl (decode_escaped_frameBegin hc true)
  case dEscEnd => exact decode_encode_of_columns h rfl rfl (decode_escaped_frameEnd hc true)
  case dEscEndStray => exact decode_encode_of_columns h rfl rfl (decode_escaped_frameEnd hc false)
  case dEscLitesc => exact decode_encode_of_columns h rfl rfl (decode_escaped_literalEscape hc true)
  case dEscLitzero => exact decode_encode_of_columns h rfl rfl (decode_escaped_literalZero hc true)
  case dEscLitescStray => exact decode_encode_of_columns h rfl rfl (decode_escaped_literalEscape hc false)
  case dEscLitzeroStray => exact decode_encode_of_columns h rfl rfl (decode_escaped_literalZero hc false)
  case dEscUnknown b =>
    have hb : cls2 c b = .other := (cls2_other_iff c b).mpr (by simpa [Instr.wf, and_assoc] using hwf)
    rw [Instr.mode_of_selectedBy h rfl]
    exact decode_escaped_other hc fo hb
  case dFrameEsc => exact decode_encode_of_columns h rfl rfl (decode_inFrame_escape hc)
  case dFrameData b => exact decode_encode_of_columns h rfl rfl (decode_inFrame_raw hc (bne_iff_ne.mp hwf))
  case ePreamble => exact decode_of_wf_enc hc m fo _
  case eZero => exact decode_enc_zero hc m fo
  case eEscape => exact decode_enc_escape hc m fo
  case eVerbatim v =>
    obtain ⟨h0, he⟩ : v ≠ 0x00#8 ∧ v ≠ c.escape := by simpa [Instr.wf] using hwf
    exact decode_enc_verbatim hc m fo h0 he
  case ePostamble => exact decode_of_wf_enc hc m fo _

/-- Settles O1, row by row: the columns of the row leave its own context, in which the class of its input is its own. -/
theorem everyRowDecodesBackFromItsInput : Obligations.EveryRowDecodesBackFromItsInput :=
  fun _ _ _ _ hc h => decode_encode_of_selectedBy hc h

/-- R8. -/
theorem wf_of_decode (h : decode c m fo w = .ok i) : c.wf = true := by
  unfold decode at h
  split at h
  · assumption
  · cases h

/-- R146: what the order of tests leaves for the default row is a well-formed operand of it. -/
theorem decodeTok_wf (c : Config) (t : EncTok) : (decodeTok c t).wf c = true := by
  cases t with
  | payloadStart | payloadEnd => rfl
  | payloadByte v =>
    simp only [decodeTok]
    split_ifs with h0 he
    · rfl
    · rfl
    · exact Instr.eVerbatim_wf h0 he

theorem decodeTok_encode (c : Config) (t : EncTok) : (decodeTok c t).encode c = .enc t := by
  cases t with
  | payloadStart | payloadEnd => rfl
  | payloadByte v =>
    simp only [decodeTok]
    split_ifs with h0 he
    · rw [h0, Instr.encode]
    · rw [he, Instr.encode]
    · rfl

/-- R85: the columns of an emission row are empty, so every context selects it. -/
theorem decodeTok_selected (c : Config) (m : Mode) (fo : Bool) (t : EncTok) :
    (decodeTok c t).selectedBy c m fo = true := by
  refine Instr.selectedBy_iff.mpr ⟨decodeTok_wf c t, ?_⟩
  cases t with
  | payloadStart | payloadEnd => exact ⟨rfl, rfl⟩
  | payloadByte v =>
    simp only [decodeTok]
    split_ifs <;> exact ⟨rfl, rfl⟩

/-- Settles O2, by the unit the input belongs to. -/
theorem decodedRowIsSelectedAndHasThatInput : Obligations.DecodedRowIsSelectedAndHasThatInput := by
  intro c m fo w i h
  have hc := wf_of_decode h
  cases w with
  | rx b => exact ⟨hc, decode_rx_selected h, encode_of_decode_rx h⟩
  | enc t =>
    rw [decode_of_wf_enc hc] at h
    obtain rfl := Except.ok.inj h
    exact ⟨hc, decodeTok_selected c m fo t, decodeTok_encode c t⟩

/-- R100: a reachable state selects a row for every byte, as the contexts without a row violate R24. -/
theorem decode_rx_of_inv (hc : c.wf = true) (hd : d.inv c = true) (b : Byte) :
    ∃ i, decode c d.mode d.frameOpen (.rx b) = .ok i := by
  obtain ⟨hidle, hframe, -, -⟩ := (Machine.Decoder.inv_iff c d).mp hd
  cases hm : d.mode with
  | idle => exact ⟨_, by rw [hidle hm, decode_of_wf_idle hc]⟩
  | escaped => exact ⟨_, decode_of_wf_escaped hc d.frameOpen b⟩
  | inFrame => exact ⟨_, by rw [hframe hm, decode_of_wf_inFrame hc]⟩

/-- Settles O3: the state and the byte are decoded to a row they select, and every such row is decoded from them. -/
theorem eachReachableStateAndByteSelectExactlyOneRow : Obligations.EachReachableStateAndByteSelectExactlyOneRow := by
  intro c d b hc hd
  obtain ⟨i, hi⟩ := decode_rx_of_inv hc hd b
  refine ⟨i, ⟨decode_rx_selected hi, encode_of_decode_rx hi⟩, fun j hj hb => ?_⟩
  have hj := decode_encode_of_selectedBy hc hj
  rw [hb, hi] at hj
  exact (Except.ok.inj hj).symm

/-- Distinct bytes are as many of the 256 values. -/
theorem countP_range_mem {l : Bytes} (hl : l.Nodup) :
    (List.range 256).countP (fun n => decide (BitVec.ofNat 8 n ∈ l)) = l.length := by
  have hperm : ((List.range 256).filter fun n => decide (BitVec.ofNat 8 n ∈ l)).Perm (l.map BitVec.toNat) := by
    refine (List.perm_ext_iff_of_nodup (List.nodup_range.filter _)
      (hl.map fun _ _ => BitVec.eq_of_toNat_eq)).mpr fun n => ?_
    rw [List.mem_filter, List.mem_range, decide_eq_true_iff, List.mem_map]
    constructor
    · rintro ⟨hn, hmem⟩
      exact ⟨_, hmem, Nat.mod_eq_of_lt hn⟩
    · rintro ⟨b, hmem, rfl⟩
      exact ⟨b.isLt, by rwa [BitVec.ofNat_toNat, BitVec.setWidth_eq]⟩
  rw [List.countP_eq_length_filter, hperm.length_eq, List.length_map]

/-- R75: the four markers of mode Escaped, which are the alphabet without `ESCAPE`. -/
def Config.markers (c : Config) : Bytes := c.alphabet.tail

theorem Config.markers_nodup (hc : c.wf = true) : c.markers.Nodup := by
  obtain ⟨hnodup, -, -⟩ := of_decide_eq_true hc
  exact hnodup.tail

theorem cls2_other_iff_not_mem_markers (c : Config) (b : Byte) : cls2 c b = .other ↔ ¬ b ∈ c.markers := by
  simp only [cls2_other_iff, Config.markers, Config.alphabet, List.tail_cons, List.mem_cons, List.not_mem_nil,
    or_false, not_or, and_comm (a := b ≠ c.literalEscape)]

/-- Settles O5: the other four of the 256 values are the markers. -/
theorem unknownMarkersAreTwoHundredFiftyTwo : Obligations.UnknownMarkersAreTwoHundredFiftyTwo := by
  refine fun c hc => ⟨?_, cls2_escape hc⟩
  have hmarkers := countP_range_mem (Config.markers_nodup hc)
  have hall := List.length_eq_countP_add_countP (fun n => decide (BitVec.ofNat 8 n ∈ c.markers)) (l := List.range 256)
  simp only [decide_eq_true_eq, hmarkers, List.length_range, ← cls2_other_iff_not_mem_markers] at hall
  have hfour : c.markers.length = 4 := rfl
  omega

/-- Settles O4, input by input: REF is a closed configuration. -/
theorem referenceBytesSelectTheirRows : Obligations.ReferenceBytesSelectTheirRows :=
  ⟨decode_idle_escape Config.ref_wf, decode_idle_raw Config.ref_wf (by decide),
   decode_escaped_frameBegin Config.ref_wf false, decode_escaped_frameEnd Config.ref_wf true,
   decode_escaped_other Config.ref_wf true (cls2_escape Config.ref_wf),
   decode_inFrame_raw Config.ref_wf (by decide), decode_enc_escape Config.ref_wf .idle false,
   decode_enc_verbatim Config.ref_wf .idle false (by decide) (by decide)⟩

end Sys2Proof
end

section
/-! The laws on frames of items, on streams of frames and on frames lost to what stands before them (42_laws.md R177 to
R182). -/

namespace Sys2Proof.Machine

variable {c : Config} {g p : Bytes} {v : Byte} {xs : List Item}

/-- Settles O36: the begin opens an empty frame, the items contribute their values one by one, the end delivers. -/
theorem frameDeliversTheValuesOfItsItems : Obligations.FrameDeliversTheValuesOfItsItems := fun _ _ hc hd hq =>
  (parses_frame hc hq).of_reset hd

/-- Settles O37: an encoded message is the frame of its payload's items. -/
theorem longPayloadsAreTruncatedWithoutError : Obligations.LongPayloadsAreTruncatedWithoutError := fun _ p hc hd =>
  (parses_encodeMessage hc p).of_reset hd

/-- R182: every frame finds the decoder in its reset state and leaves it there, and so does the filler after it. -/
theorem parses_frames (hc : c.wf = true) {l : List (Bytes × Bytes)} (hl : ∀ x ∈ l, ∀ b ∈ x.2, b ≠ c.escape) :
    Parses c Decoder.reset (l.flatMap fun x => encodeMessage c x.1 ++ x.2) Decoder.reset
      (l.map fun x => .frameReady (x.1.take c.cap)) (l.map fun x => x.1.length - c.cap).sum := by
  induction l with
  | nil => exact Parses.nil c _
  | cons x l ih =>
    obtain ⟨hx, hl⟩ := List.forall_mem_cons.mp hl
    exact ((parses_encodeMessage hc x.1).append (parses_filler hc hx)).append (ih hl)

/-- Settles O41: the first filler leaves the reset state, in which the frames are decoded one after another. -/
theorem concatenatedFramesAreAllDecoded : Obligations.ConcatenatedFramesAreAllDecoded := fun _ _ _ hc hd hg hl =>
  ((parses_filler hc hg).append_of_silent (parses_frames hc hl)).of_reset hd

/-- R110, R111: a literal in the reset state. -/
theorem parses_strayLiteral (hc : c.wf = true) (hv : v = c.literalZero ∨ v = c.literalEscape) :
    Parses c Decoder.reset [c.escape, v] Decoder.reset [.protocolError .literalOutsideFrame] 0 := by
  have hliteral : Parses c ⟨.escaped, false, []⟩ [v] Decoder.reset [.protocolError .literalOutsideFrame] 0 := by
    rcases hv with rfl | rfl
    · exact parses_raise hc (escaped_closed_inv c) (decode_escaped_literalZero hc false) fun _ => rfl
    · exact parses_raise hc (escaped_closed_inv c) (decode_escaped_literalEscape hc false) fun _ => rfl
  exact (parses_idle_escape hc).append_of_silent hliteral

/-- R179, R180: what the encoder emits for a payload byte, read outside a frame. -/
theorem parses_stuff_outside (hc : c.wf = true) (v : Byte) : Parses c Decoder.reset (stuff c v) Decoder.reset
    (List.replicate ([v].count 0x00#8 + [v].count c.escape) (.protocolError .literalOutsideFrame)) 0 := by
  obtain ⟨hesc, -⟩ := Config.nonzero_of_wf hc
  by_cases h0 : v = 0x00#8
  · simpa [stuff, h0, hesc.symm] using parses_strayLiteral hc (.inl rfl)
  · by_cases he : v = c.escape
    · simpa [stuff, he, hesc] using parses_strayLiteral hc (.inr rfl)
    · simpa [stuff, h0, he] using parses_idle_raw hc he

theorem count_cons_eq_add {α : Type} [BEq α] (a x : α) (l : List α) : (x :: l).count a = [x].count a + l.count a := by
  rw [← List.count_append, List.singleton_append]

/-- R179, R180: a stuffed payload outside a frame gives one error for each literal in it. -/
theorem parses_stuffed_outside (hc : c.wf = true) (p : Bytes) :
    Parses c Decoder.reset (p.flatMap (stuff c)) Decoder.reset
      (List.replicate (p.count 0x00#8 + p.count c.escape) (.protocolError .literalOutsideFrame)) 0 := by
  induction p with
  | nil => exact Parses.nil c _
  | cons v p ih =>
    have h := (parses_stuff_outside hc v).append ih
    rwa [List.replicate_append_replicate, Nat.add_add_add_comm, ← count_cons_eq_add, ← count_cons_eq_add] at h

/-- R179, R180: all of an encoded message after a begin that was lost. -/
theorem parses_message_without_begin (hc : c.wf = true) (p : Bytes) :
    Parses c Decoder.reset (p.flatMap (stuff c) ++ wireEnd c) Decoder.reset
      (List.replicate (p.count 0x00#8 + p.count c.escape) (.protocolError .literalOutsideFrame) ++
        [.protocolError .unexpectedEnd]) 0 :=
  (parses_stuffed_outside hc p).append (parses_strayEnd hc)

/-- R112, R179: an `ESCAPE` in the reset state takes the `ESCAPE` of the begin as its marker, and the `FRAME_BEGIN` left
over is filler. -/
theorem parses_escape_wireBegin (hc : c.wf = true) : Parses c Decoder.reset ([c.escape] ++ wireBegin c) Decoder.reset
    [.protocolError .unknownControlSequence] 0 := by
  have hbegin : c.frameBegin ≠ c.escape := (Config.distinct_of_wf hc).1.symm
  have hmark : Parses c ⟨.escaped, false, []⟩ [c.escape] Decoder.reset [.protocolError .unknownControlSequence] 0 :=
    parses_raise hc (escaped_closed_inv c) (decode_escaped_other hc false (cls2_escape hc)) fun _ => rfl
  exact (parses_idle_escape hc).append_of_silent (hmark.append (parses_idle_raw hc hbegin))

/-- Settles O38: the stray `ESCAPE` costs the begin, and the rest of the message is read outside a frame. -/
theorem strayEscapeCostsTheNextFrame : Obligations.StrayEscapeCostsTheNextFrame := by
  intro s p hc hd
  have h := ((parses_escape_wireBegin hc).append (parses_message_without_begin hc p)).of_reset hd
  simpa only [encodeMessage, List.append_assoc, Nat.add_zero] using h

/-- R180: the items of an open frame, closed by the begin of the next one. -/
theorem parses_frame_cut_by_begin (hc : c.wf = true) (hxs : ∀ x ∈ xs, itemWf c x = true) :
    Parses c Decoder.reset (wireBegin c ++ itemsWire c xs ++ wireBegin c) Decoder.reset
      [.protocolError .unexpectedBegin] (xs.length - c.cap) := by
  have hitems := parses_items (q := []) hc (Nat.zero_le _) hxs
  rw [List.nil_append, List.length_nil, Nat.zero_add] at hitems
  exact ((parses_wireBegin hc).append_of_silent hitems).append (parses_nestedBegin hc (List.length_take_le ..))

/-- Settles O39: the begin of the message closes the open frame, and the rest of it is read outside a frame. -/
theorem unterminatedFrameCostsTheNextFrame : Obligations.UnterminatedFrameCostsTheNextFrame := by
  intro s q p hc hd hq
  have h := ((parses_frame_cut_by_begin hc hq).append (parses_message_without_begin hc p)).of_reset hd
  simpa only [encodeMessage, List.append_assoc, Nat.add_zero] using h

end Sys2Proof.Machine
end

section
/-! The bytes the encoder emits (41_encoder.md R140 to R148): how many, that none is 0x00, and the rows of an encode call
that emit them one after another. -/

namespace Sys2Proof.Machine

variable {c : Config} {s t : State} {v b : Byte} {p : Bytes} {x : EncTok} {l : List EncTok}

/-- R141 to R143: a stuffed byte is one byte more. -/
theorem length_stuff (hc : c.wf = true) (v : Byte) :
    (stuff c v).length = 1 + [v].count 0x00#8 + [v].count c.escape := by
  obtain ⟨hesc, -⟩ := Config.nonzero_of_wf hc
  by_cases h0 : v = 0x00#8
  · simp [stuff, h0, hesc.symm]
  · by_cases he : v = c.escape
    · simp [stuff, he, hesc]
    · simp [stuff, h0, he]

theorem length_stuff_le (c : Config) (v : Byte) : (stuff c v).length ≤ 2 := by
  unfold stuff
  split_ifs <;> simp

/-- R148, for the bytes between the delimiters. -/
theorem length_stuffed (hc : c.wf = true) (p : Bytes) :
    (p.flatMap (stuff c)).length = p.length + p.count 0x00#8 + p.count c.escape := by
  induction p with
  | nil => rfl
  | cons v p ih =>
    rw [List.flatMap_cons, List.length_append, ih, length_stuff hc, List.length_cons,
      count_cons_eq_add 0x00#8 v p, count_cons_eq_add c.escape v p]
    omega

theorem length_encodeMessage (c : Config) (p : Bytes) :
    (encodeMessage c p).length = 4 + (p.flatMap (stuff c)).length := by
  simp only [encodeMessage, wireBegin, wireEnd, List.length_append, List.length_cons, List.length_nil]
  omega

/-- R148: at most every byte is stuffed. -/
theorem length_stuffed_le (c : Config) (p : Bytes) : (p.flatMap (stuff c)).length ≤ 2 * p.length := by
  induction p with
  | nil => exact Nat.le_refl 0
  | cons v p ih =>
    have hv := length_stuff_le c v
    rw [List.flatMap_cons, List.length_append, List.length_cons]
    omega

/-- Settles O30: the payload's bytes are counted one by one, and the delimiters are four bytes. -/
theorem encodedLengthCountsTheStuffedBytes : Obligations.EncodedLengthCountsTheStuffedBytes := by
  intro c p hc
  have hle := length_stuffed_le c p
  rw [length_encodeMessage]
  rw [length_stuffed hc] at hle ⊢
  refine ⟨?_, ?_, ?_, rfl, fun _ => ⟨?_, ?_⟩⟩ <;> omega

theorem stuff_nonzero (hc : c.wf = true) (hb : b ∈ stuff c v) : b ≠ 0x00#8 := by
  obtain ⟨hesc, -, -, hzero, hlit⟩ := Config.nonzero_of_wf hc
  unfold stuff at hb
  split_ifs at hb with h0 <;> simp only [List.mem_cons, List.not_mem_nil, or_false] at hb
  · rcases hb with rfl | rfl <;> assumption
  · rcases hb with rfl | rfl <;> assumption
  · exact hb ▸ h0

theorem wireBegin_nonzero (hc : c.wf = true) (hb : b ∈ wireBegin c) : b ≠ 0x00#8 := by
  obtain ⟨hesc, hbegin, -⟩ := Config.nonzero_of_wf hc
  simp only [wireBegin, List.mem_cons, List.not_mem_nil, or_false] at hb
  rcases hb with rfl | rfl <;> assumption

theorem wireEnd_nonzero (hc : c.wf = true) (hb : b ∈ wireEnd c) : b ≠ 0x00#8 := by
  obtain ⟨hesc, -, hend, -⟩ := Config.nonzero_of_wf hc
  simp only [wireEnd, List.mem_cons, List.not_mem_nil, or_false] at hb
  rcases hb with rfl | rfl <;> assumption

theorem stuffed_nonzero (hc : c.wf = true) (hb : b ∈ p.flatMap (stuff c)) : b ≠ 0x00#8 := by
  obtain ⟨v, -, hb⟩ := List.mem_flatMap.mp hb
  exact stuff_nonzero hc hb

/-- Settles O31: an encoded message is two delimiters around stuffed bytes, and none of them has a 0x00. -/
theorem encodedMessageHasNoZeroByte : Obligations.EncodedMessageHasNoZeroByte := by
  intro c p hc b hb
  rw [encodeMessage, List.mem_append, List.mem_append] at hb
  rcases hb with (hb | hb) | hb
  · exact wireBegin_nonzero hc hb
  · exact stuffed_nonzero hc hb
  · exact wireEnd_nonzero hc hb

/-- R141 to R145: what the row of an element of the walk emits. -/
def tokWire (c : Config) : EncTok → Bytes
  | .payloadStart => wireBegin c
  | .payloadByte v => stuff c v
  | .payloadEnd => wireEnd c

theorem rowEffect_decodeTok (s : State) (x : EncTok) :
    rowEffect (decodeTok s.cfg x) s = outBytes (tokWire s.cfg x) s := by
  cases x with
  | payloadStart | payloadEnd => rfl
  | payloadByte v =>
    simp only [decodeTok, tokWire, stuff]
    split_ifs <;> rfl

/-- Every element of a walk runs its row, in every state. -/
theorem runRow_enc (hc : s.cfg.wf = true) (x : EncTok) :
    runRow (.enc x) s = .next (outBytes (tokWire s.cfg x) s) := by
  have hd := decode_of_wf_enc hc s.dec.mode s.dec.frameOpen x
  rw [runRow_of_decode hd, exec_encoderRow (decode_enc_isDecoderRow hd) hc (decodeTok_wf _ x), rowEffect_decodeTok]

theorem runRow_enc_next (h : runRow (.enc x) s = .next t) : s.cfg.wf = true ∧ t = outBytes (tokWire s.cfg x) s := by
  obtain ⟨_, hd, -⟩ := runRow_next h
  have hc := wf_of_decode hd
  rw [runRow_enc hc] at h
  exact ⟨hc, (Host.Outcome.next.inj h).symm⟩

theorem length_tokWire_le (c : Config) (x : EncTok) : (tokWire c x).length ≤ 2 := by
  cases x with
  | payloadStart | payloadEnd => exact Nat.le_refl 2
  | payloadByte v => exact length_stuff_le c v

theorem tokWire_nonzero (hc : c.wf = true) (hb : b ∈ tokWire c x) : b ≠ 0x00#8 := by
  cases x with
  | payloadStart => exact wireBegin_nonzero hc hb
  | payloadByte v => exact stuff_nonzero hc hb
  | payloadEnd => exact wireEnd_nonzero hc hb

/-- The walk over a payload emits its encoded message (R140). -/
theorem flatMap_tokWire_payloadWalk (c : Config) (p : Bytes) : (payloadWalk p).flatMap (tokWire c) = encodeMessage c p := by
  simp [payloadWalk, encodeMessage, tokWire, List.flatMap_map]

theorem step_walk_emits {rest : List EncTok} (hc : s.cfg.wf = true) (hw : s.encWalk = x :: rest) :
    step s = .next { s with encWalk := rest, encOut := s.encOut ++ tokWire s.cfg x, event := .none, ovf := false } := by
  rw [step_walk hw, runRow_enc (s := { s with encWalk := rest }) hc]
  rfl

/-- R140: the call itself emits nothing (log entry 4). -/
theorem step_encode {rest : List Input} (hc : s.cfg.wf = true) (hw : s.encWalk = [])
    (hi : s.inputs = .op (.encode p) :: rest) :
    step s = .next { s with encWalk := payloadWalk p, inputs := rest, event := .none, ovf := false } := by
  rw [step_op hw hi, runOp, if_pos hc]
  rfl

/-- As many steps as a walk has elements run its rows and nothing else. -/
theorem runSteps_walk (hc : s.cfg.wf = true) (hw : s.encWalk = l) (hevent : s.event = .none) (hovf : s.ovf = false) :
    runSteps l.length s = .next { s with encWalk := [], encOut := s.encOut ++ l.flatMap (tokWire s.cfg) } := by
  induction l generalizing s with
  | nil =>
    rw [List.flatMap_nil, List.append_nil, List.length_nil, runSteps, ← hw]
  | cons x l ih =>
    have hrest := ih (s := { s with encWalk := l, encOut := s.encOut ++ tokWire s.cfg x, event := .none, ovf := false })
      hc rfl rfl rfl
    rw [List.length_cons, runSteps_succ _ (step_walk_emits hc hw), hrest, List.flatMap_cons, List.append_assoc,
      hevent, hovf]

/-- Settles O29: the call puts the walk before the machine, and the steps after it run the walk's rows. -/
theorem encodeCallEmitsTheEncodedMessage : Obligations.EncodeCallEmitsTheEncodedMessage := by
  intro s p rest hc hw hi
  have hlength : p.length + 2 = (payloadWalk p).length := by
    simp only [payloadWalk, List.length_cons, List.length_append, List.length_map, List.length_nil]
  have hrows := runSteps_walk (s := { s with encWalk := payloadWalk p, inputs := rest, event := .none, ovf := false })
    hc rfl rfl rfl
  rw [runSteps_succ _ (step_encode hc hw hi), hlength, hrows, flatMap_tokWire_payloadWalk, hw]

end Sys2Proof.Machine
end

section
/-! The serializer over many ticks (41_encoder.md R158): what it has still to emit, which every tick shortens by the byte
it emits. -/

namespace Sys2Proof.Machine

variable {c : Config} {s t : State} {z z' : Serializer} {b v : Byte} {p buf : Bytes} {n k : Nat}

/-- What is left of a frame when its payload is sent up to index `n`. -/
def frameFrom (c : Config) (buf : Bytes) (n : Nat) : Bytes := (buf.drop n).flatMap (stuff c) ++ wireEnd c

theorem frameFrom_of_getElem? (hv : buf[n]? = some v) : frameFrom c buf n = stuff c v ++ frameFrom c buf (n + 1) := by
  obtain ⟨hn, rfl⟩ := List.getElem?_eq_some_iff.mp hv
  rw [frameFrom, List.drop_eq_getElem_cons hn, List.flatMap_cons, List.append_assoc, frameFrom]

theorem frameFrom_of_length (c : Config) (buf : Bytes) : frameFrom c buf buf.length = wireEnd c := by
  rw [frameFrom, List.drop_length, List.flatMap_nil, List.nil_append]

/-- What the serializer has still to emit of the frame in flight (R28, R158). In the two phases after an `ESCAPE` that
announces a marker, that `ESCAPE` is already out. -/
def Serializer.pending (c : Config) (z : Serializer) : Bytes :=
  match z.phase with
  | .idle => []
  | .preEsc => wireBegin c ++ frameFrom c z.buf z.idx
  | .preMark => c.frameBegin :: frameFrom c z.buf z.idx
  | .body | .postEsc => frameFrom c z.buf z.idx
  | .bodyMark | .postMark => (frameFrom c z.buf z.idx).tail

theorem pending_body_or_postEsc {ph : SerPhase} (h : ph = .body ∨ ph = .postEsc) (buf : Bytes) (n : Nat) :
    Serializer.pending c ⟨ph, buf, n⟩ = frameFrom c buf n := by
  rcases h with rfl | rfl <;> rfl

theorem pending_serAdvance (c : Config) (z : Serializer) : (serAdvance z).pending c = frameFrom c z.buf (z.idx + 1) :=
  pending_body_or_postEsc (ite_eq_or_eq ..) _ _

theorem two_le_length_frameFrom (c : Config) (buf : Bytes) (n : Nat) : 2 ≤ (frameFrom c buf n).length := by
  rw [frameFrom, List.length_append]
  exact Nat.le_add_left ..

/-- R158: nothing is left exactly in E_IDLE. -/
theorem Serializer.pending_eq_nil_iff : z.pending c = [] ↔ z.phase = .idle := by
  have hlen := two_le_length_frameFrom c z.buf z.idx
  rw [← List.length_eq_zero_iff]
  cases hz : z.phase with
  | idle | preMark => simp [Serializer.pending, hz]
  | _ =>
    simp only [Serializer.pending, hz, List.length_append, List.length_tail, reduceCtorEq, iff_false]
    omega

/-- R154, R155: the invariants of R28 past a payload byte. -/
theorem serAdvance_inv (hcap : z.buf.length ≤ c.encCap) (hidx : z.idx < z.buf.length) :
    (serAdvance z).inv c = true := by
  rw [Serializer.inv_iff]
  by_cases h : z.idx + 1 < z.buf.length
  · simp [serAdvance, h, hcap, hidx]
  · have hlast : z.idx + 1 = z.buf.length := by omega
    simp [serAdvance, hcap, hlast]

/-- One tick from `z` leads to `z'` and emits `b`, which is the first of the bytes that were left. -/
structure TickEmits (c : Config) (z z' : Serializer) (b : Byte) : Prop where
  emits : serEmit c z = some (z', b)
  inv : z'.inv c = true
  buf : z'.buf = z.buf
  pending : z.pending c = b :: z'.pending c

/-- R154: a tick in E_BODY. -/
theorem tickEmits_body (hi : z.inv c = true) (hz : z.phase = .body) : ∃ z' b, TickEmits c z z' b := by
  obtain ⟨hcap, hle, hbody, -⟩ := (Serializer.inv_iff c z).mp hi
  have hidx := hbody (.inl hz)
  have hv := List.getElem?_eq_getElem hidx
  have hleft : z.pending c = frameFrom c z.buf z.idx := by simp only [Serializer.pending, hz]
  by_cases hs : z.buf[z.idx] = 0x00#8 ∨ z.buf[z.idx] = c.escape
  · refine ⟨_, _, serEmit_body_stuffed hz hv hs, ?_, rfl, ?_⟩
    · rw [Serializer.inv_iff]
      simpa [hcap, hle, hidx] using hs
    · rw [hleft, Serializer.pending, frameFrom_of_getElem? hv]
      rcases hs with hs | hs <;> simp only [stuff, hs] <;> split_ifs <;> rfl
  · obtain ⟨h0, he⟩ := not_or.mp hs
    refine ⟨_, _, serEmit_body_raw hz hv h0 he, serAdvance_inv hcap hidx, rfl, ?_⟩
    rw [hleft, pending_serAdvance, frameFrom_of_getElem? hv, stuff, if_neg h0, if_neg he]
    rfl

/-- R155: a tick in E_BODY_MARK. -/
theorem tickEmits_bodyMark (hc : c.wf = true) (hi : z.inv c = true) (hz : z.phase = .bodyMark) :
    ∃ z' b, TickEmits c z z' b := by
  obtain ⟨hcap, -, hbody, hmark, -⟩ := (Serializer.inv_iff c z).mp hi
  have hidx := hbody (.inr hz)
  obtain ⟨hesc, -⟩ := Config.nonzero_of_wf hc
  rcases hmark hz with hv | hv <;>
  · refine ⟨serAdvance z, _, serEmit_bodyMark hz hv, serAdvance_inv hcap hidx, rfl, ?_⟩
    rw [pending_serAdvance]
    simp [Serializer.pending, hz, frameFrom_of_getElem? hv, stuff, hesc]

/-- R152 to R157: in flight, a tick under the invariants of R28 emits the next byte and keeps them. -/
theorem tickEmits_of_inFlight (hc : c.wf = true) (hi : z.inv c = true) (hz : z.phase ≠ .idle) :
    ∃ z' b, TickEmits c z z' b := by
  obtain ⟨hcap, hle, -, -, hpost, hpre⟩ := (Serializer.inv_iff c z).mp hi
  cases hph : z.phase with
  | idle => exact absurd hph hz
  | preEsc =>
    refine ⟨_, _, serEmit_preEsc hph, ?_, rfl, ?_⟩
    · simp [Serializer.inv_iff, hcap, hpre (.inl hph)]
    · simp [Serializer.pending, hph, wireBegin]
  | preMark =>
    have hzero := hpre (.inr hph)
    refine ⟨_, _, serEmit_preMark hph, ?_, rfl, ?_⟩
    · rw [Serializer.inv_iff]
      by_cases h : 0 < z.buf.length
      · simp [h, hcap, hzero]
      · simp [hzero, Nat.eq_zero_of_not_pos h]
    · rw [pending_body_or_postEsc (ite_eq_or_eq ..)]
      simp only [Serializer.pending, hph]
  | body => exact tickEmits_body hi hph
  | bodyMark => exact tickEmits_bodyMark hc hi hph
  | postEsc =>
    have hlast := hpost (.inl hph)
    refine ⟨_, _, serEmit_postEsc hph, ?_, rfl, ?_⟩
    · simp [Serializer.inv_iff, hcap, hlast]
    · simp [Serializer.pending, hph, hlast, frameFrom_of_length, wireEnd]
  | postMark =>
    have hlast := hpost (.inr hph)
    refine ⟨_, _, serEmit_postMark hph, ?_, rfl, ?_⟩
    · simp [Serializer.inv_iff, hcap, hle]
    · simp [Serializer.pending, hph, hlast, frameFrom_of_length, wireEnd]

theorem step_tick {rest : List Input} (hc : s.cfg.wf = true) (hw : s.encWalk = [])
    (hin : s.inputs = .op .tick :: rest) (hi : s.ser.inv s.cfg = true) (he : serEmit s.cfg s.ser = some (z', b)) :
    step s = .next { s with ser := z', inputs := rest, serOut := s.serOut ++ [b], event := .none, ovf := false } := by
  rw [step_op hw hin, runOp_tick_of_serEmit (s := { s with inputs := rest }) hc hi he]

theorem step_start {rest : List Input} (hc : s.cfg.wf = true) (hw : s.encWalk = [])
    (hin : s.inputs = .op (.start p) :: rest) (hz : s.ser.phase = .idle) (hp : p.length ≤ s.cfg.encCap) :
    step s = .next { s with ser := { phase := .preEsc, buf := p, idx := 0 }, inputs := rest,
                            event := .none, ovf := false } := by
  rw [step_op hw hin, runOp_start (s := { s with inputs := rest }) hc,
    serStart_of_fits (s := { s with inputs := rest }) hz hp]

/-- As many ticks as there are bytes left, or fewer, emit them in order. -/
theorem runSteps_ticks {rest : List Input} (hc : s.cfg.wf = true) (hw : s.encWalk = []) (hi : s.ser.inv s.cfg = true)
    (hevent : s.event = .none) (hovf : s.ovf = false) (hin : s.inputs = List.replicate k (.op .tick) ++ rest)
    (hk : k ≤ (s.ser.pending s.cfg).length) : ∃ z : Serializer,
      runSteps k s = .next { s with ser := z, inputs := rest, serOut := s.serOut ++ (s.ser.pending s.cfg).take k } ∧
      z.buf = s.ser.buf ∧ z.pending s.cfg = (s.ser.pending s.cfg).drop k := by
  induction k generalizing s with
  | zero =>
    have hin : s.inputs = rest := hin
    refine ⟨s.ser, ?_, rfl, rfl⟩
    rw [List.take_zero, List.append_nil, runSteps, ← hin]
  | succ k ih =>
    have hflight : s.ser.phase ≠ .idle := fun h => by
      rw [Serializer.pending_eq_nil_iff.mpr h] at hk
      cases hk
    obtain ⟨z', b, hemits, hinv, hbuf, hpending⟩ := tickEmits_of_inFlight hc hi hflight
    rw [hpending, List.length_cons, Nat.add_le_add_iff_right] at hk
    have hstep := step_tick hc hw hin hi hemits
    obtain ⟨z, hrun, hzbuf, hleft⟩ := ih (s := { s with
      ser := z', inputs := List.replicate k (.op .tick) ++ rest, serOut := s.serOut ++ [b], event := .none,
      ovf := false }) hc hw hinv rfl rfl rfl hk
    refine ⟨z, ?_, hzbuf.trans hbuf, ?_⟩
    · refine (runSteps_succ _ hstep).trans (hrun.trans ?_)
      rw [hpending, List.take_succ_cons, hevent, hovf, List.append_assoc]
      rfl
    · rw [hpending, List.drop_succ_cons]
      exact hleft

/-- R150: after `start(p)` the whole message is left. -/
theorem pending_started (c : Config) (p : Bytes) :
    Serializer.pending c { phase := .preEsc, buf := p, idx := 0 } = encodeMessage c p := by
  rw [Serializer.pending, frameFrom, List.drop_zero, encodeMessage, List.append_assoc]

theorem started_inv (hp : p.length ≤ c.encCap) : Serializer.inv c { phase := .preEsc, buf := p, idx := 0 } = true := by
  simp [Serializer.inv_iff, hp]

/-- Settles O28: after `start` the whole message is left to emit, each tick emits the first byte of what is left, and
nothing is left exactly in E_IDLE. -/
theorem serializerEmitsTheEncodedMessage : Obligations.SerializerEmitsTheEncodedMessage := by
  intro s p rest k hc hw hz hp hi hk
  obtain ⟨n, hn⟩ := Nat.exists_eq_add_of_le hk
  rw [hn, List.replicate_add, List.append_assoc] at hi
  have hstart := step_start hc hw hi hz hp
  obtain ⟨z, hrun, hbuf, hleft⟩ := runSteps_ticks (s := { s with
    ser := { phase := .preEsc, buf := p, idx := 0 }, inputs := _, event := .none, ovf := false })
    hc hw (started_inv hp) rfl rfl rfl (by rwa [pending_started])
  rw [pending_started] at hrun hleft
  refine ⟨_, (runSteps_succ k hstart).trans hrun, rfl, ?_, hbuf, rfl, rfl⟩
  rw [← Serializer.pending_eq_nil_iff (c := s.cfg), hleft, List.drop_eq_nil_iff]
  exact ⟨Nat.le_antisymm hk, fun h => h.ge⟩

end Sys2Proof.Machine
end

section
/-! What a step reads and writes, unit by unit (20_memory.md R63, 10_state.md R30, R31, 40_decoder.md R116): an emission
row, a fed byte, a request, and the step that runs one of them. -/

namespace Sys2Proof.Machine

variable {s s₁ s₂ t t₁ : State} {b : Byte} {i : Instr} {w : Sel} {x : EncTok} {o : Op} {z z' : Serializer}

/-- With nothing requested a step is a tick without a byte (R101). -/
theorem step_noRequest (hw : s.encWalk = []) (hi : s.inputs = []) : step s = runOp .noByte s := by
  simp only [step, fetch, hw, hi]

/-- Settles O21: the walk comes before the requests, and running an input is executing the row it selects. -/
theorem stepRunsTheDecodedRow : Obligations.StepRunsTheDecodedRow :=
  ⟨fun _ _ _ _ hw hd => (step_walk hw).trans (runRow_of_decode hd),
   fun _ _ _ _ hw hi hd => (step_byte hw hi).trans (runRow_of_decode hd),
   fun _ _ _ hw hi => step_op hw hi,
   fun _ hw hi => step_noRequest hw hi⟩

/-- Settles O23: the reset state is written out field by field. -/
theorem resetLeavesBothUnitsAtRest : Obligations.ResetLeavesBothUnitsAtRest := fun _ => ⟨rfl, rfl, rfl, rfl⟩

/-- Settles O24: a reset writes its unit and the outputs, and nothing else. -/
theorem resetOperationsRestoreTheResetState : Obligations.ResetOperationsRestoreTheResetState := fun _ hc =>
  ⟨if_pos hc, if_pos hc, if_pos hc⟩

/-- R116: the effect of a decoder row is a function of the configuration and the decoder, and is on the decoder and the
outputs. -/
theorem rowEffect_decoderRow (hr : i.isDecoderRow = true) (hcfg : s₁.cfg = s₂.cfg) (hdec : s₁.dec = s₂.dec) :
    rowEffect i s₂ = { s₂ with dec := (rowEffect i s₁).dec, event := (rowEffect i s₁).event,
                               ovf := (rowEffect i s₁).ovf } := by
  have hs : s₂ = { s₂ with cfg := s₁.cfg, dec := s₁.dec } := by rw [hcfg, hdec]
  rw [hs]
  cases i
  case ePreamble | eZero | eEscape | eVerbatim | ePostamble => cases hr
  all_goals rfl

/-- R116: states with the same decoder answer a byte alike. -/
theorem feed_of_same_decoder (hcfg : s₁.cfg = s₂.cfg) (hdec : s₁.dec = s₂.dec) (h : feed s₁ b = .next t₁) :
    feed s₂ b = .next { s₂ with dec := t₁.dec, event := t₁.event, ovf := t₁.ovf } := by
  obtain ⟨hc, hi, i, hr, hd, rfl⟩ := feed_next h
  rw [← rowEffect_decoderRow hr hcfg hdec]
  exact DecoderReady.feed_eq ⟨hcfg ▸ hc, hcfg ▸ hdec ▸ hi, rfl, rfl⟩ (hcfg ▸ hdec ▸ hd)

/-- Settles O51, by the row the byte selects in both states. -/
theorem decoderStepIsAFunctionOfTheDecoder : Obligations.DecoderStepIsAFunctionOfTheDecoder :=
  fun _ _ _ _ hcfg hdec h => feed_of_same_decoder hcfg hdec h

/-- A fed byte changes the decoder and the outputs only. -/
theorem feed_frame (h : feed s b = .next t) : t = { s with dec := t.dec, event := t.event, ovf := t.ovf } :=
  Host.Outcome.next.inj (h.symm.trans (feed_of_same_decoder rfl rfl h))

/-- A request changes neither the configuration nor the waiting requests nor the function's stream, and outputs None and
0 (R37). -/
theorem runOp_frame (h : runOp o s = .next t) :
    t = { s with dec := t.dec, ser := t.ser, encWalk := t.encWalk, serOut := t.serOut, event := .none, ovf := false } := by
  obtain ⟨-, h⟩ := runOp_next h
  cases o with
  | start p =>
    obtain ⟨-, -, rfl⟩ := h
    rfl
  | tick =>
    rcases serTick_next h with ⟨-, rfl⟩ | ⟨-, -, z, b, -, rfl⟩ <;> rfl
  | noByte | encode | reset | resetDecoder | resetSerializer =>
    obtain rfl : t = _ := h
    rfl

/-- Settles O52, by the frame of each unit's operations. -/
theorem unitsAreIndependent : Obligations.UnitsAreIndependent := by
  refine ⟨fun s t b h => ?_, fun s t x h => ?_, fun s t p h => ?_, fun s t o ho h => ?_⟩
  · rw [feed_frame h]
    exact ⟨rfl, rfl, rfl, rfl, rfl⟩
  · obtain ⟨-, rfl⟩ := runRow_enc_next h
    exact ⟨rfl, rfl, rfl, rfl, rfl⟩
  · obtain ⟨-, hcall⟩ := runOp_next h
    obtain rfl : t = encodeCall p s := hcall
    exact ⟨rfl, rfl, rfl, rfl, rfl⟩
  · obtain ⟨-, h⟩ := runOp_next h
    rcases ho with rfl | ⟨p, rfl⟩
    · rcases serTick_next h with ⟨-, rfl⟩ | ⟨-, -, z, b, -, rfl⟩ <;> exact ⟨rfl, rfl, rfl, rfl⟩
    · obtain ⟨-, -, rfl⟩ := h
      exact ⟨rfl, rfl, rfl, rfl⟩

/-- A step that answers a next state ran the row of the next element of an encode call, or, with no call in progress, fed
a byte or served a request; a tick without a byte is a request too. -/
theorem step_cases (h : step s = .next t) :
    (∃ x rest, s.encWalk = x :: rest ∧ s.cfg.wf = true ∧
      t = outBytes (tokWire s.cfg x) { s with encWalk := rest }) ∨
    (s.encWalk = [] ∧ ∃ b rest, feed { s with inputs := rest } b = .next t) ∨
    (s.encWalk = [] ∧ ∃ o rest, runOp o { s with inputs := rest } = .next t) := by
  rcases step_next h with ⟨x, rest, hw, h⟩ | ⟨hw, b, rest, -, h⟩ | ⟨hw, o, rest, -, h⟩ | ⟨hw, hi, h⟩
  · obtain ⟨hc, rfl⟩ := runRow_enc_next h
    exact .inl ⟨x, rest, hw, hc, rfl⟩
  · exact .inr (.inl ⟨hw, b, rest, h⟩)
  · exact .inr (.inr ⟨hw, o, rest, h⟩)
  · exact .inr (.inr ⟨hw, .noByte, s.inputs, h⟩)

theorem step_cfg (h : step s = .next t) : t.cfg = s.cfg := by
  rcases step_cases h with ⟨x, rest, -, -, rfl⟩ | ⟨-, b, rest, h⟩ | ⟨-, o, rest, h⟩
  · rfl
  · rw [feed_frame h]
  · rw [runOp_frame h]

/-- Settles O55, by the frames of what a step can run. -/
theorem noStepChangesTheConfiguration : Obligations.NoStepChangesTheConfiguration := fun _ _ h => step_cfg h

/-- R176: no byte of a frame from some index on is 0x00. -/
theorem frameFrom_nonzero {c : Config} {buf : Bytes} {n : Nat} (hc : c.wf = true) (hb : b ∈ frameFrom c buf n) :
    b ≠ 0x00#8 := by
  rcases List.mem_append.mp hb with hb | hb
  · exact stuffed_nonzero hc hb
  · exact wireEnd_nonzero hc hb

theorem pending_nonzero {c : Config} (hc : c.wf = true) (hb : b ∈ z.pending c) : b ≠ 0x00#8 := by
  obtain ⟨-, hbegin, -⟩ := Config.nonzero_of_wf hc
  cases hz : z.phase <;> simp only [Serializer.pending, hz] at hb
  case idle => cases hb
  case preEsc =>
    rcases List.mem_append.mp hb with hb | hb
    · exact wireBegin_nonzero hc hb
    · exact frameFrom_nonzero hc hb
  case preMark =>
    rcases List.mem_cons.mp hb with rfl | hb
    · exact hbegin
    · exact frameFrom_nonzero hc hb
  case body | postEsc => exact frameFrom_nonzero hc hb
  case bodyMark | postMark => exact frameFrom_nonzero hc (List.mem_of_mem_tail hb)

/-- Under R28's invariants what a tick does to the serializer is `TickEmits`. -/
theorem tickEmits_of_serEmit {c : Config} (hc : c.wf = true) (hi : z.inv c = true) (h : serEmit c z = some (z', b)) :
    TickEmits c z z' b := by
  obtain ⟨_, _, htick⟩ := tickEmits_of_inFlight hc hi (phase_ne_idle_of_serEmit h)
  obtain ⟨rfl, rfl⟩ := Prod.mk.inj (Option.some.inj (h.symm.trans htick.emits))
  exact htick

/-- R50(b), R176: an outbound stream as before with at most `n` bytes appended, none of them 0x00. -/
def GrowsBy (n : Nat) (out out' : Bytes) : Prop :=
  ∃ bs : Bytes, out' = out ++ bs ∧ bs.length ≤ n ∧ ∀ b ∈ bs, b ≠ 0x00#8

theorem growsBy_refl (n : Nat) (out : Bytes) : GrowsBy n out out :=
  ⟨[], (List.append_nil out).symm, Nat.zero_le n, List.forall_mem_nil _⟩

/-- R58, R176: a request adds at most one byte to the serializer's stream. -/
theorem runOp_serOut (h : runOp o s = .next t) : GrowsBy 1 s.serOut t.serOut := by
  obtain ⟨hc, h⟩ := runOp_next h
  cases o with
  | start p =>
    obtain ⟨-, -, rfl⟩ := h
    exact growsBy_refl 1 _
  | tick =>
    rcases serTick_next h with ⟨-, rfl⟩ | ⟨-, hi, z, b, he, rfl⟩
    · exact growsBy_refl 1 _
    · have hpending := (tickEmits_of_serEmit hc hi he).pending
      have hb := pending_nonzero hc (hpending ▸ List.mem_cons_self)
      exact ⟨[b], rfl, Nat.le_refl 1, List.forall_mem_singleton.mpr hb⟩
  | noByte | encode | reset | resetDecoder | resetSerializer =>
    obtain rfl : t = _ := h
    exact growsBy_refl 1 _

/-- An emission row appends its bytes to the function's stream, a tick its byte to the serializer's, and nothing else
writes a stream. -/
theorem step_streams (h : step s = .next t) : GrowsBy 2 s.encOut t.encOut ∧ GrowsBy 1 s.serOut t.serOut := by
  rcases step_cases h with ⟨x, rest, -, hc, rfl⟩ | ⟨-, b, rest, h⟩ | ⟨-, o, rest, h⟩
  · exact ⟨⟨tokWire s.cfg x, rfl, length_tokWire_le _ x, fun _ => tokWire_nonzero hc⟩, growsBy_refl 1 _⟩
  · rw [feed_frame h]
    exact ⟨growsBy_refl 2 _, growsBy_refl 1 _⟩
  · refine ⟨?_, runOp_serOut (s := { s with inputs := rest }) h⟩
    rw [runOp_frame h]
    exact growsBy_refl 2 _

/-- Settles O56, stream by stream. -/
theorem outboundStreamsOnlyGrowAndCarryNoZero : Obligations.OutboundStreamsOnlyGrowAndCarryNoZero := by
  intro s t h
  obtain ⟨⟨bs, henc, hblen, hbs⟩, cs, hser, hclen, hcs⟩ := step_streams h
  exact ⟨bs, cs, henc, hser, hblen, hclen, fun b hb => (List.mem_append.mp hb).elim (hbs b) (hcs b)⟩

/-- What a step finds to do: an element of an encode call, a byte, a request or nothing. -/
theorem next_work (s : State) : (∃ x rest, s.encWalk = x :: rest) ∨
    (s.encWalk = [] ∧ ∃ b rest, s.inputs = .byte b :: rest) ∨
    (s.encWalk = [] ∧ ∃ o rest, s.inputs = .op o :: rest) ∨ (s.encWalk = [] ∧ s.inputs = []) := by
  rcases s.encWalk with _ | ⟨x, rest⟩
  · rcases s.inputs with _ | ⟨b | o, rest⟩
    · exact .inr (.inr (.inr ⟨rfl, rfl⟩))
    · exact .inr (.inl ⟨rfl, b, rest, rfl⟩)
    · exact .inr (.inr (.inl ⟨rfl, o, rest, rfl⟩))
  · exact .inl ⟨x, rest, rfl⟩

theorem runRow_withOutputs (w : Sel) (s : State) (e : Event) (v : Bool) :
    runRow w { s with event := e, ovf := v } = runRow w s := by
  have hexec : ∀ i, exec i { s with event := e, ovf := v } = exec i s := fun i => by cases i <;> rfl
  unfold runRow
  simp only [hexec]

theorem runOp_withOutputs (o : Op) (s : State) (e : Event) (v : Bool) :
    runOp o { s with event := e, ovf := v } = runOp o s := by
  cases o <;> rfl

/-- Settles O54, by what is fetched: every row and every operation writes the outputs before it answers. -/
theorem noStepReadsTheOutputsOfTheLast : Obligations.NoStepReadsTheOutputsOfTheLast := by
  intro s e v
  rcases next_work s with ⟨x, rest, hw⟩ | ⟨hw, b, rest, hi⟩ | ⟨hw, o, rest, hi⟩ | ⟨hw, hi⟩
  · rw [step_walk hw, step_walk (s := { s with event := e, ovf := v }) hw]
    exact runRow_withOutputs _ { s with encWalk := rest } e v
  · rw [step_byte hw hi, step_byte (s := { s with event := e, ovf := v }) hw hi]
    exact runRow_withOutputs _ { s with inputs := rest } e v
  · rw [step_op hw hi, step_op (s := { s with event := e, ovf := v }) hw hi]
    exact runOp_withOutputs _ { s with inputs := rest } e v
  · rw [step_noRequest hw hi, step_noRequest (s := { s with event := e, ovf := v }) hw hi]
    exact runOp_withOutputs _ s e v

/-- R8. -/
theorem runRow_of_illFormed (hc : s.cfg.wf = false) (w : Sel) : runRow w s = .refused .illFormedConfig := by
  simp only [runRow, decode, hc, Bool.false_eq_true, if_false, refusalOf]

/-- R8. -/
theorem runOp_of_illFormed (hc : s.cfg.wf = false) (o : Op) : runOp o s = .refused .illFormedConfig := by
  simp only [runOp, hc, Bool.false_eq_true, if_false]

theorem step_of_illFormed (hc : s.cfg.wf = false) : step s = .refused .illFormedConfig := by
  rcases next_work s with ⟨x, rest, hw⟩ | ⟨hw, b, rest, hi⟩ | ⟨hw, o, rest, hi⟩ | ⟨hw, hi⟩
  · exact (step_walk hw).trans (runRow_of_illFormed (s := { s with encWalk := rest }) hc _)
  · exact (step_byte hw hi).trans (runRow_of_illFormed (s := { s with inputs := rest }) hc _)
  · exact (step_op hw hi).trans (runOp_of_illFormed (s := { s with inputs := rest }) hc _)
  · exact (step_noRequest hw hi).trans (runOp_of_illFormed hc _)

theorem exec_eq_decoderRow (hr : i.isDecoderRow = true) (s : State) : exec i s = decoderRow i (rowEffect i) s := by
  cases i
  case ePreamble | eZero | eEscape | eVerbatim | ePostamble => cases hr
  all_goals rfl

/-- R25: no decoder row has a meaning in an unreachable decoder state. -/
theorem exec_of_unreachable (hr : i.isDecoderRow = true) (hc : s.cfg.wf = true) (hi : s.dec.inv s.cfg = false) :
    exec i s = .refused .unreachableDecoderState := by
  simp only [exec_eq_decoderRow hr, decoderRow, hc, hi, if_true, Bool.false_eq_true, if_false]

/-- R25: under a well-formed configuration a byte is rejected in the unreachable contexts only. -/
theorem refusalOf_of_decode_error {c : Config} {m : Mode} {fo : Bool} {r : Reject} (hc : c.wf = true)
    (h : decode c m fo w = .error r) : refusalOf r = .unreachableDecoderState := by
  simp only [decode, hc, if_true] at h
  cases w with
  | enc x => cases h
  | rx b => cases m <;> cases fo <;> cases h <;> rfl

theorem feed_of_unreachable (hc : s.cfg.wf = true) (hi : s.dec.inv s.cfg = false) (b : Byte) :
    feed s b = .refused .unreachableDecoderState := by
  unfold feed runRow
  split
  · next i hd => exact exec_of_unreachable (decode_rx_isDecoderRow hd) hc hi
  · next r hd => rw [refusalOf_of_decode_error hc hd]

/-- Settles O57: an ill-formed configuration stops every row and operation, an unreachable decoder state every decoder
row, and the contexts that decode rejects are unreachable. -/
theorem statesWithoutMeaningAreRefused : Obligations.StatesWithoutMeaningAreRefused :=
  ⟨fun _ hc => step_of_illFormed hc, fun _ b hc hi => feed_of_unreachable hc hi b⟩

end Sys2Proof.Machine
end

section
/-! Frames of the rows (20_memory.md R51 to R54, 10_state.md R22): the rows that store nothing, the rows that append, the
rows that open or close, and what each does to the frame-open flag. -/

namespace Sys2Proof.Machine

variable {s t : State} {i : Instr}

/-- R102, R103, R113, R141 to R145: the rows that store nothing. -/
def StoresNothing (i : Instr) : Prop :=
  i = .dIdleEsc ∨ i = .dFrameEsc ∨ i = .ePreamble ∨ i = .eZero ∨ i = .eEscape ∨ i = .ePostamble ∨
    ∃ b, i = .dIdleSkip b ∨ i = .eVerbatim b

/-- A row that stores nothing changes nothing but the outputs, or the mode, or it emits. -/
theorem StoresNothing.effect (h : StoresNothing i) (s : State) :
    ((∃ b, i = .dIdleSkip b) ∧ rowEffect i s = emit .none false s) ∨
    ((i = .dIdleEsc ∨ i = .dFrameEsc) ∧ rowEffect i s = emit .none false (setMode .escaped s)) ∨
    (i.isDecoderRow = false ∧ ∃ bs, rowEffect i s = outBytes bs s) := by
  rcases h with rfl | rfl | rfl | rfl | rfl | rfl | ⟨b, rfl | rfl⟩
  · exact .inr (.inl ⟨.inl rfl, rfl⟩)
  · exact .inr (.inl ⟨.inr rfl, rfl⟩)
  · exact .inr (.inr ⟨rfl, _, rfl⟩)
  · exact .inr (.inr ⟨rfl, _, rfl⟩)
  · exact .inr (.inr ⟨rfl, _, rfl⟩)
  · exact .inr (.inr ⟨rfl, _, rfl⟩)
  · exact .inl ⟨⟨b, rfl⟩, rfl⟩
  · exact .inr (.inr ⟨rfl, _, rfl⟩)

/-- Settles O58: none of the three effects writes the payload or the flag. -/
theorem rowsThatStoreNothingKeepThePayload : Obligations.RowsThatStoreNothingKeepThePayload := by
  intro i s t hi he
  obtain ⟨-, -, rfl, -⟩ := exec_next he
  rcases StoresNothing.effect hi s with ⟨-, h⟩ | ⟨hesc, h⟩ | ⟨hr, bs, h⟩ <;> rw [h]
  · exact ⟨fun _ => rfl, rfl, fun _ _ => rfl, fun _ => rfl, rfl⟩
  · refine ⟨fun _ => rfl, rfl, fun hidle hframe => ?_, fun _ => rfl, rfl⟩
    exact absurd hesc (not_or_intro hidle hframe)
  · exact ⟨fun _ => rfl, rfl, fun _ _ => rfl, fun hd => absurd (hr.symm.trans hd) Bool.false_ne_true, rfl⟩

/-- Settles O59: each of the rows is an append of its value, at the address the append computes. -/
theorem appendingRowsStoreOneByte : Obligations.AppendingRowsStoreOneByte := by
  intro i v s t hi he
  obtain ⟨-, -, rfl, -⟩ := exec_next he
  have happend : rowEffect i s = appendAndStay v s := by
    rcases hi with ⟨rfl, rfl⟩ | ⟨rfl, rfl⟩ | rfl <;> rfl
  rw [happend]
  exact ⟨fun a ha => memRead_payAppend_same (v := v) ha, fun a ha => memRead_payAppend_other (v := v) ha,
    payAppend_frameOpen .., rfl, rfl⟩

/-- R104 to R107, R110 to R112: the rows that open or close a frame. -/
def OpensOrCloses (i : Instr) : Prop :=
  i = .dEscBegin ∨ i = .dEscBeginNested ∨ i = .dEscEnd ∨ i = .dEscEndStray ∨ i = .dEscLitescStray ∨
    i = .dEscLitzeroStray ∨ ∃ b, i = .dEscUnknown b

/-- A row that opens or closes a frame leaves an empty frame open, or the decoder in its reset state. -/
theorem OpensOrCloses.effect (h : OpensOrCloses i) (s : State) :
    (i = .dEscBegin ∧ (rowEffect i s).dec = ⟨.inFrame, true, []⟩ ∨
      i ≠ .dEscBegin ∧ (rowEffect i s).dec = Decoder.reset) ∧
    rowEffect i s = { s with dec := (rowEffect i s).dec, event := (rowEffect i s).event, ovf := false } := by
  rcases h with rfl | rfl | rfl | rfl | rfl | rfl | ⟨b, rfl⟩
  · exact ⟨.inl ⟨rfl, rfl⟩, rfl⟩
  all_goals exact ⟨.inr ⟨Instr.noConfusion, rfl⟩, rfl⟩

/-- Settles O60: both decoder states such a row can leave have an empty payload. -/
theorem openingAndClosingRowsClearThePayload : Obligations.OpeningAndClosingRowsClearThePayload := by
  intro i s t hi he
  obtain ⟨-, -, rfl, -⟩ := exec_next he
  obtain ⟨⟨hb, hd⟩ | ⟨hb, hd⟩, hframe⟩ := OpensOrCloses.effect hi s
  · refine ⟨fun a => ?_, fun _ => ?_, fun h => absurd hb h, hframe⟩ <;> rw [hd]
    · rfl
    · exact ⟨rfl, rfl⟩
  · refine ⟨fun a => ?_, fun h => absurd h hb, fun _ => ?_, hframe⟩ <;> rw [hd]
    · rfl
    · exact ⟨rfl, rfl⟩

/-- R22, R85: a row answers only with the value of the flag in its column. -/
theorem open_of_exec {fo : Bool} (he : exec i s = .next t) (hr : i.isDecoderRow = true)
    (hopen : i.rowOpen = some fo) : s.dec.frameOpen = fo := by
  obtain ⟨-, -, -, hsel⟩ := exec_next he
  obtain ⟨-, hs⟩ := hsel hr
  exact Instr.open_of_selectedBy hs hopen

/-- R22: the rows that clear the flag are those that end in the reset state, each of which is read with the frame open
but for the stray ones, which are not. -/
theorem closes_of_exec (he : exec i s = .next t) (hs : s.dec.frameOpen = true) (ht : t.dec.frameOpen = false) :
    i = .dEscBeginNested ∨ i = .dEscEnd ∨ ∃ b, i = .dEscUnknown b := by
  have hcolumn : i.isDecoderRow = true → i.rowOpen ≠ some false := fun hr hopen =>
    Bool.false_ne_true ((open_of_exec he hr hopen).symm.trans hs)
  obtain ⟨-, -, rfl, -⟩ := exec_next he
  have hkept : ∀ {d : Decoder}, d.frameOpen = s.dec.frameOpen → d.frameOpen ≠ false := by simp [hs]
  cases i
  case dEscBeginNested => exact .inl rfl
  case dEscEnd => exact .inr (.inl rfl)
  case dEscUnknown b => exact .inr (.inr ⟨b, rfl⟩)
  case dIdleSkip | dIdleEsc | dEscBegin | dEscEndStray | dEscLitescStray | dEscLitzeroStray =>
    exact absurd rfl (hcolumn rfl)
  case dEscLitesc | dEscLitzero | dFrameData => exact absurd ht (hkept (payAppend_frameOpen ..))
  case dFrameEsc | ePreamble | eZero | eEscape | eVerbatim | ePostamble => exact absurd ht (hkept rfl)

/-- Settles O48: D.ESC.BEGIN alone sets the flag, the three rows of `closes_of_exec` alone clear it, and the flag of the
state before is the one in the row's column. -/
theorem frameOpenChangesOnlyWhereTheSpecSays : Obligations.FrameOpenChangesOnlyWhereTheSpecSays := by
  intro i s t he
  obtain ⟨-, -, ht, -⟩ := exec_next he
  constructor
  · constructor
    · rintro ⟨hs, hopens⟩
      exact eq_dEscBegin_of_opens hs (ht ▸ hopens)
    · rintro rfl
      exact ⟨open_of_exec he rfl rfl, by rw [ht]; rfl⟩
  · constructor
    · rintro ⟨hs, hcloses⟩
      exact (closes_of_exec he hs hcloses).imp_right (.imp_right fun h => ⟨h, hs⟩)
    · rintro (rfl | rfl | ⟨⟨b, rfl⟩, hs⟩)
      · exact ⟨open_of_exec he rfl rfl, by rw [ht]; rfl⟩
      · exact ⟨open_of_exec he rfl rfl, by rw [ht]; rfl⟩
      · exact ⟨hs, by rw [ht]; rfl⟩

end Sys2Proof.Machine
end

section
/-! The invariant of the machine (10_state.md R24, R28, 42_laws.md R181, R183): what every row, request and step keeps of
it, and what the outputs of any step can be. -/

namespace Sys2Proof.Machine

variable {s t : State} {i : Instr} {o : Op} {b v : Byte} {p : Bytes} {x : EncTok} {l : List EncTok}

/-- R24, R52: an append in an open frame. -/
theorem appendAndStay_keeps_inv (v : Byte) (hd : s.dec.inv s.cfg = true) (hopen : s.dec.frameOpen = true) :
    (appendAndStay v s).dec.inv s.cfg = true := by
  obtain ⟨-, -, -, hlen⟩ := (Decoder.inv_iff s.cfg s.dec).mp hd
  have hflag := (payAppend_frameOpen s.cfg s.dec v).trans hopen
  have hkept : (payAppend s.cfg s.dec v).payload.length ≤ s.cfg.cap :=
    of_decide_eq_true (payAppend_keeps_wf v (decide_eq_true hlen))
  exact (Decoder.inv_iff s.cfg _).mpr ⟨nofun, fun _ => hflag, fun h => absurd (hflag.symm.trans h) nofun, hkept⟩

/-- R24, R103, R113: an `ESCAPE` changes the mode to Escaped, which no invariant but the last two speaks of. -/
theorem setMode_escaped_keeps_inv (hd : s.dec.inv s.cfg = true) : (setMode .escaped s).dec.inv s.cfg = true := by
  obtain ⟨-, -, hclosed, hlen⟩ := (Decoder.inv_iff s.cfg s.dec).mp hd
  exact (Decoder.inv_iff s.cfg _).mpr ⟨nofun, nofun, hclosed, hlen⟩

/-- R24: a selected row leaves a reachable decoder state. -/
theorem rowEffect_keeps_inv (hd : s.dec.inv s.cfg = true)
    (hs : i.selectedBy s.cfg s.dec.mode s.dec.frameOpen = true) : (rowEffect i s).dec.inv s.cfg = true := by
  cases i
  case dIdleEsc | dFrameEsc => exact setMode_escaped_keeps_inv hd
  case dEscBegin => exact open_inv (by decide) (Nat.zero_le _)
  case dEscLitesc | dEscLitzero | dFrameData =>
    exact appendAndStay_keeps_inv _ hd (Instr.open_of_selectedBy hs rfl)
  case dEscBeginNested | dEscEnd | dEscEndStray | dEscLitescStray | dEscLitzeroStray | dEscUnknown =>
    exact Decoder.reset_inv _
  case dIdleSkip | ePreamble | eZero | eEscape | eVerbatim | ePostamble => exact hd

theorem feed_keeps_inv (h : feed s b = .next t) : t.dec.inv s.cfg = true := by
  obtain ⟨-, hi, i, -, hd, rfl⟩ := feed_next h
  exact rowEffect_keeps_inv hi (decode_rx_selected hd)

theorem outputsInv_of_no_event (h : t.event = .none) : OutputsInv t :=
  ⟨fun he => absurd h he, by rw [h]; rfl⟩

/-- R181, R183: a row with an event ends in the reset state without `ovf`, and delivers a payload that was in the
buffer. -/
theorem rowEffect_outputsInv (hd : s.dec.inv s.cfg = true) (i : Instr) : OutputsInv (rowEffect i s) := by
  obtain ⟨-, -, -, hlen⟩ := (Decoder.inv_iff s.cfg s.dec).mp hd
  cases i
  case dEscEnd => exact ⟨fun _ => ⟨rfl, rfl⟩, decide_eq_true hlen⟩
  case dEscBeginNested | dEscEndStray | dEscLitescStray | dEscLitzeroStray | dEscUnknown =>
    exact ⟨fun _ => ⟨rfl, rfl⟩, rfl⟩
  all_goals exact outputsInv_of_no_event rfl

/-- R181, R183, R195: what the outputs of a step can be, from any state whatever, as a decoder row answers in reachable
states only. -/
theorem step_outputsInv (h : step s = .next t) : OutputsInv t := by
  rcases step_cases h with ⟨x, rest, -, -, rfl⟩ | ⟨-, b, rest, h⟩ | ⟨-, o, rest, h⟩
  · exact outputsInv_of_no_event rfl
  · obtain ⟨-, hd, i, -, -, rfl⟩ := feed_next h
    exact rowEffect_outputsInv hd i
  · rw [runOp_frame h]
    exact outputsInv_of_no_event rfl

/-- Settles O42: it is part of what the outputs of a step can be. -/
theorem deliveredPayloadsFitTheBuffer : Obligations.DeliveredPayloadsFitTheBuffer := by
  intro s t p h hp
  obtain ⟨-, hfits⟩ := step_outputsInv h
  rw [hp, step_cfg h] at hfits
  exact of_decide_eq_true hfits

/-- The rest of a walk is a walk under way or finished. -/
theorem walkWf_of_walkRest (h : walkRest l = true) : walkWf l = true := by
  cases l with
  | nil => cases h
  | cons x l =>
    cases x with
    | payloadStart => cases h
    | payloadByte | payloadEnd => exact h

/-- A row of a walk leaves a walk (R140). -/
theorem walkWf_tail (h : walkWf (x :: l) = true) : walkWf l = true := by
  cases x with
  | payloadStart | payloadByte => exact walkWf_of_walkRest h
  | payloadEnd =>
    obtain rfl := List.isEmpty_iff.mp h
    rfl

theorem walkWf_payloadWalk (p : Bytes) : walkWf (payloadWalk p) = true := by
  have hrest : walkRest (p.map .payloadByte ++ [.payloadEnd]) = true := by
    induction p with
    | nil => rfl
    | cons v p ih => exact ih
  exact hrest

/-- R24, R28, R140: what a request keeps of the two units and the walk. -/
theorem runOp_keeps_inv (h : runOp o s = .next t) (hd : s.dec.inv s.cfg = true) (hz : s.ser.inv s.cfg = true)
    (hw : walkWf s.encWalk = true) :
    t.dec.inv s.cfg = true ∧ t.ser.inv s.cfg = true ∧ walkWf t.encWalk = true := by
  obtain ⟨hc, h⟩ := runOp_next h
  cases o with
  | noByte =>
    obtain rfl : t = _ := h
    exact ⟨hd, hz, hw⟩
  | start p =>
    obtain ⟨-, hp, rfl⟩ := h
    exact ⟨hd, started_inv hp, hw⟩
  | tick =>
    rcases serTick_next h with ⟨-, rfl⟩ | ⟨-, -, z, b, he, rfl⟩
    · exact ⟨hd, hz, hw⟩
    · exact ⟨hd, (tickEmits_of_serEmit hc hz he).inv, hw⟩
  | encode p =>
    obtain rfl : t = _ := h
    exact ⟨hd, hz, walkWf_payloadWalk p⟩
  | reset =>
    obtain rfl : t = _ := h
    exact ⟨Decoder.reset_inv _, Serializer.reset_inv _, hw⟩
  | resetDecoder =>
    obtain rfl : t = _ := h
    exact ⟨Decoder.reset_inv _, hz, hw⟩
  | resetSerializer =>
    obtain rfl : t = _ := h
    exact ⟨hd, Serializer.reset_inv _, hw⟩

/-- R24, R28, R140: what a step keeps of the two units and the walk. -/
theorem step_keeps_inv (h : step s = .next t) (hd : s.dec.inv s.cfg = true) (hz : s.ser.inv s.cfg = true)
    (hw : walkWf s.encWalk = true) :
    t.dec.inv s.cfg = true ∧ t.ser.inv s.cfg = true ∧ walkWf t.encWalk = true := by
  rcases step_cases h with ⟨x, rest, hwalk, -, rfl⟩ | ⟨-, b, rest, h⟩ | ⟨-, o, rest, h⟩
  · exact ⟨hd, hz, walkWf_tail (hwalk ▸ hw)⟩
  · refine ⟨feed_keeps_inv (s := { s with inputs := rest }) h, ?_⟩
    rw [feed_frame h]
    exact ⟨hz, hw⟩
  · exact runOp_keeps_inv (s := { s with inputs := rest }) h hd hz hw

/-- Settles O49: the configuration stays, what runs keeps the units and the walk, and every step writes the outputs. -/
theorem everyStepKeepsTheInvariant : Obligations.EveryStepKeepsTheInvariant := by
  rintro s t ⟨hc, hd, hz, hw, -⟩ h
  obtain ⟨hd', hz', hw'⟩ := step_keeps_inv h hd hz hw
  rw [← step_cfg h] at hc hd' hz'
  exact ⟨hc, hd', hz', hw', step_outputsInv h⟩

/-- R36, R37. -/
theorem resetWith_inv {c : Config} (hc : c.wf = true) : (State.resetWith c).Inv :=
  ⟨hc, Decoder.reset_inv c, Serializer.reset_inv c, rfl, outputsInv_of_no_event rfl⟩

/-- Settles O50: both units are at rest, no call is in progress and there is no event. -/
theorem resetStatesMeetTheInvariant : Obligations.ResetStatesMeetTheInvariant :=
  ⟨fun _ hc => resetWith_inv hc, resetWith_inv Config.ref_wf⟩

/-- R100: every byte is answered in every reachable state. -/
theorem feed_answers (hc : s.cfg.wf = true) (hd : s.dec.inv s.cfg = true) (b : Byte) : ∃ t, feed s b = .next t := by
  obtain ⟨i, hi⟩ := decode_rx_of_inv hc hd b
  exact ⟨_, DecoderReady.feed_eq ⟨hc, hd, rfl, rfl⟩ hi⟩

/-- R112: a byte that is no marker, in mode Escaped. -/
theorem parses_unknownMarker {c : Config} {d : Decoder} (hc : c.wf = true) (hd : d.inv c = true)
    (hm : d.mode = .escaped) (hb : cls2 c b = .other) :
    Parses c d [b] Decoder.reset [.protocolError .unknownControlSequence] 0 :=
  parses_raise hc hd (hm ▸ decode_escaped_other hc d.frameOpen hb) fun _ => rfl

/-- R117: a byte that is no marker, after an `ESCAPE` where one is needed, leads to the reset state. -/
theorem parses_rearm {c : Config} {d : Decoder} (hc : c.wf = true) (hd : d.inv c = true) (hb : cls2 c b = .other) :
    Parses c d (if d.mode = .escaped then [b] else [c.escape, b]) Decoder.reset
      [.protocolError .unknownControlSequence] 0 := by
  obtain ⟨hidle, hframe, hclosed, hlen⟩ := (Decoder.inv_iff c d).mp hd
  obtain ⟨m, fo, q⟩ := d
  cases m with
  | escaped => exact parses_unknownMarker hc hd rfl hb
  | idle =>
    obtain rfl : fo = false := hidle rfl
    obtain rfl : q = [] := hclosed rfl
    exact (parses_idle_escape hc).append_of_silent (parses_unknownMarker hc (escaped_closed_inv c) rfl hb)
  | inFrame =>
    obtain rfl : fo = true := hframe rfl
    exact (parses_inFrame_escape hc hlen).append_of_silent
      (parses_unknownMarker hc (open_inv (by decide) hlen) rfl hb)

/-- Settles O44: a reachable state selects a row for every byte, which keeps it reachable, and an unknown marker
recovers. -/
theorem everyByteIsAcceptedAndTwoBytesRearm : Obligations.EveryByteIsAcceptedAndTwoBytesRearm := by
  refine fun s hc hd => ⟨fun b => ?_, fun b hb => ?_⟩
  · obtain ⟨t, ht⟩ := feed_answers hc hd b
    have hcfg : t.cfg = s.cfg := by rw [feed_frame ht]
    exact ⟨t, ht, hcfg ▸ feed_keeps_inv ht⟩
  · obtain ⟨t, ht, hkept⟩ := parses_rearm hc hd hb s rfl rfl
    exact ⟨_, ht, congrArg State.dec hkept⟩

end Sys2Proof.Machine
end

section
/-! What an environment observes of a run (42_laws.md R181, R184): it depends on the configuration and the decoder only,
and not on ticks without a byte. -/

namespace Sys2Proof.Machine

variable {s s₁ s₂ t : State} {b : Byte} {r : Refusal} {n : Nat}

theorem observed_record (t : State) (x : Host.Outcome RunResult Fault Refusal) : observed (record t x) =
    (observed x).map fun y => (y.1, eventList t.event ++ y.2.1, t.ovf.toNat + y.2.2) := by
  cases x <;> rfl

/-- A step without outputs is not observed. -/
theorem observed_record_of_silent (hevent : t.event = .none) (hovf : t.ovf = false)
    (x : Host.Outcome RunResult Fault Refusal) : observed (record t x) = observed x := by
  rw [observed_record, hevent, hovf]
  cases x <;> simp [observed, eventList]

theorem run_cons_refused (w : Bytes) (h : feed s b = .refused r) : run s (b :: w) = .refused r := by
  simp only [run, h]

theorem observe_succ (n : Nat) (h : step s = .next t) : observe (n + 1) s = record t (observe n t) := by
  simp only [observe, h]

theorem observe_succ_refused (n : Nat) (h : step s = .refused r) : observe (n + 1) s = .refused r := by
  simp only [observe, h]

/-- R116: states with the same decoder refuse the same bytes. -/
theorem feed_refused_of_same_decoder (hcfg : s₁.cfg = s₂.cfg) (hdec : s₁.dec = s₂.dec)
    (h : feed s₁ b = .refused r) : ∃ r', feed s₂ b = .refused r' := by
  cases h₂ : feed s₂ b with
  | next t₂ => cases h.symm.trans (feed_of_same_decoder hcfg.symm hdec.symm h₂)
  | fault f => cases f
  | refused r' => exact ⟨r', rfl⟩

/-- R181: what is observed of a run depends on the configuration and the decoder only. -/
theorem observed_run_of_same_decoder (s₁ s₂ : State) (hcfg : s₁.cfg = s₂.cfg) (hdec : s₁.dec = s₂.dec)
    (w : Bytes) : observed (run s₁ w) = observed (run s₂ w) := by
  induction w generalizing s₁ s₂ with
  | nil => simp only [run, observed, hdec]
  | cons b w ih =>
    cases h₁ : feed s₁ b with
    | next t₁ =>
      have hkept : t₁.cfg = s₂.cfg := by rw [feed_frame h₁, hcfg]
      have hrest := ih t₁ { s₂ with dec := t₁.dec, event := t₁.event, ovf := t₁.ovf } hkept rfl
      rw [run_cons w h₁, run_cons w (feed_of_same_decoder hcfg hdec h₁), observed_record, observed_record, hrest]
    | fault f => cases f
    | refused r =>
      obtain ⟨r', h₂⟩ := feed_refused_of_same_decoder hcfg hdec h₁
      rw [run_cons_refused w h₁, run_cons_refused w h₂]
      rfl

/-- Settles O40: an event leaves the reset state, from which what is observed depends on the configuration only. -/
theorem everyEventReArmsTheDecoder : Obligations.EveryEventReArmsTheDecoder := by
  intro s t h he
  obtain ⟨hreset, -⟩ := step_outputsInv h
  obtain ⟨hdec, -⟩ := hreset he
  exact ⟨hdec, fun w => observed_run_of_same_decoder t (State.resetWith t.cfg) rfl hdec w⟩

/-- A step that feeds a byte is observed as the fed byte is, if the steps after it are. -/
theorem observed_observe_of_feed {s' : State} {w : Bytes} (hstep : step s = feed s' b) (hcfg : s.cfg = s'.cfg)
    (hdec : s.dec = s'.dec) (hrest : ∀ t, feed s' b = .next t → observed (observe n t) = observed (run t w)) :
    observed (observe (n + 1) s) = observed (run s (b :: w)) := by
  rw [observed_run_of_same_decoder s s' hcfg hdec]
  cases hb : feed s' b with
  | next t =>
    rw [observe_succ _ (hstep.trans hb), run_cons _ hb, observed_record, observed_record, hrest t hb]
  | fault f => cases f
  | refused r =>
    rw [observe_succ_refused _ (hstep.trans hb), run_cons_refused _ hb]

/-- A step that changes neither the decoder nor outputs anything is not observed. -/
theorem observed_observe_of_silent {w : Bytes} (hstep : step s = .next t) (hevent : t.event = .none)
    (hovf : t.ovf = false) (hcfg : t.cfg = s.cfg) (hdec : t.dec = s.dec)
    (hrest : observed (observe n t) = observed (run t w)) : observed (observe (n + 1) s) = observed (run s w) := by
  rw [observe_succ _ hstep, observed_record_of_silent hevent hovf, hrest, observed_run_of_same_decoder t s hcfg hdec]

/-- Settles O43, by induction on the polls: a tick without a byte is not observed, and a byte is observed as the fed
byte is. -/
theorem pacingDoesNotMatter : Obligations.PacingDoesNotMatter := by
  intro s l rest hc hw hi
  induction l generalizing s with
  | nil => rfl
  | cons poll l ih =>
    cases poll with
    | none => exact observed_observe_of_silent (step_noByte hc hw hi) rfl rfl rfl rfl (ih _ hc hw rfl)
    | some b =>
      refine observed_observe_of_feed (step_byte hw hi) rfl rfl fun t ht => ih t ?_ ?_ ?_ <;> rw [feed_frame ht]
      · exact hc
      · exact hw
      · rfl

end Sys2Proof.Machine
end
